-- ==== Sys2Proof/Word.lean ====
section
/-! DEFINITION. The words of the hardware: bytes and line levels (R8). Time values are `Int` (R220). -/

namespace Sys2Proof

/-- A byte, 0..255; bit 7 is the most significant (R8). -/
abbrev Byte := BitVec 8

/-- The level of a line: `true` is 1 (high), `false` is 0 (low) (R8, R29). -/
abbrev Level := Bool

end Sys2Proof
end

