-- ==== Sys2Proof/Syntax.lean ====
section
/-! DEFINITION. The decodable items of the hardware: one constructor for each of the 69 rows of the
opcode table, in its seven formats (R106). -/

namespace Sys2Proof

/-- A row of the opcode table with the operands its pattern leaves free (R104, R106). -/
inductive Instr where
  -- EV: the operation calls
  /-- C0 (R112). -/
  | c0
  /-- C1 (R111). -/
  | c1
  /-- D0 (R128). -/
  | d0
  /-- D1 (R129). -/
  | d1
  /-- R (R133). -/
  | r
  -- CLK: a `set_clock` call by stored level and argument; bit 0, the data line, is not compared
  /-- CLK_SAME_LO (R110). -/
  | clkSameLo (dataLevel : Level)
  /-- CLK_SAME_HI (R110). -/
  | clkSameHi (dataLevel : Level)
  /-- CLK_RISE (R111). -/
  | clkRise (dataLevel : Level)
  /-- CLK_FALL (R112). -/
  | clkFall (dataLevel : Level)
  -- DAT: a `set_data` call by stored level, argument and clock level; the SAME rows do not compare bit 0
  /-- DAT_SAME_LO (R126). -/
  | datSameLo (clockLevel : Level)
  /-- DAT_SAME_HI (R126). -/
  | datSameHi (clockLevel : Level)
  /-- DAT_RISE_CLKLOW (R127). -/
  | datRiseClklow
  /-- DAT_FALL_CLKLOW (R127). -/
  | datFallClklow
  /-- DAT_START (R128). -/
  | datStart
  /-- DAT_STOP (R129). -/
  | datStop
  -- FALL: a falling clock edge by protocol state
  /-- FALL_IDLE (R125). -/
  | fallIdle
  /-- FALL_START_WAIT (R115). -/
  | fallStartWait
  /-- FALL_GET_ADDRESS (R116). -/
  | fallGetAddress
  /-- FALL_ADDRESS_WRITE_ACK (R117). -/
  | fallAddressWriteAck
  /-- FALL_ADDRESS_READ_ACK (R122). -/
  | fallAddressReadAck
  /-- FALL_GET_REG_NR (R118). -/
  | fallGetRegNr
  /-- FALL_REG_NR_ACK (R119). -/
  | fallRegNrAck
  /-- FALL_READ_REGS (R123). -/
  | fallReadRegs
  /-- FALL_READ_ACK (R124). -/
  | fallReadAck
  /-- FALL_WRITE_REGS (R120). -/
  | fallWriteRegs
  /-- FALL_WRITE_ACK (R121). -/
  | fallWriteAck
  -- ADDR: the completed address byte
  /-- SLA_W (R116). -/
  | slaW
  /-- SLA_R (R116). -/
  | slaR
  /-- ADDR_OTHER (R116). -/
  | addrOther (busAddress : BitVec 7) (direction : BitVec 1)
  -- WADDR: a bank write of `shift_register` by address
  /-- W_CONTROL (R191). -/
  | wControl
  /-- W_CENTISECONDS (R192). -/
  | wCentiseconds
  /-- W_SECONDS (R193). -/
  | wSeconds
  /-- W_MINUTES (R194). -/
  | wMinutes
  /-- W_HOURS (R195). -/
  | wHours
  /-- W_YEAR_DATE (R196). -/
  | wYearDate
  /-- W_WEEKDAY_MONTH (R197). -/
  | wWeekdayMonth
  /-- W_TIMER_DAYS (R198). -/
  | wTimerDays
  /-- W_ALARM_CONTROL (R202). -/
  | wAlarmControl
  /-- W_ALARM_CENTISECONDS (R202). -/
  | wAlarmCentiseconds
  /-- W_ALARM_SECONDS (R202). -/
  | wAlarmSeconds
  /-- W_ALARM_MINUTES (R202). -/
  | wAlarmMinutes
  /-- W_ALARM_HOURS (R202). -/
  | wAlarmHours
  /-- W_ALARM_DATE (R202). -/
  | wAlarmDate
  /-- W_ALARM_MONTH (R202). -/
  | wAlarmMonth
  /-- W_ALARM_TIMER (R202). -/
  | wAlarmTimer
  /-- W_RAM_16_31 (R203). -/
  | wRam16To31 (low : BitVec 4)
  /-- W_RAM_32_63 (R203). -/
  | wRam32To63 (low : BitVec 5)
  /-- W_RAM_64_127 (R203). -/
  | wRam64To127 (low : BitVec 6)
  /-- W_RAM_128_255 (R203). -/
  | wRam128To255 (low : BitVec 7)
  -- RADDR: a bank read into `shift_register` by address
  /-- R_CONTROL (R161). -/
  | rControl
  /-- R_CENTISECONDS (R162). -/
  | rCentiseconds
  /-- R_SECONDS (R163). -/
  | rSeconds
  /-- R_MINUTES (R164). -/
  | rMinutes
  /-- R_HOURS (R165). -/
  | rHours
  /-- R_YEAR_DATE (R166). -/
  | rYearDate
  /-- R_WEEKDAY_MONTH (R167). -/
  | rWeekdayMonth
  /-- R_TIMER_DAYS (R168). -/
  | rTimerDays
  /-- R_ALARM_CONTROL (R169). -/
  | rAlarmControl
  /-- R_ALARM_CENTISECONDS (R170). -/
  | rAlarmCentiseconds
  /-- R_ALARM_SECONDS (R171). -/
  | rAlarmSeconds
  /-- R_ALARM_MINUTES (R172). -/
  | rAlarmMinutes
  /-- R_ALARM_HOURS (R173). -/
  | rAlarmHours
  /-- R_ALARM_DATE (R174). -/
  | rAlarmDate
  /-- R_ALARM_MONTH (R175). -/
  | rAlarmMonth
  /-- R_ALARM_TIMER (R176). -/
  | rAlarmTimer
  /-- R_RAM_16_31 (R178). -/
  | rRam16To31 (low : BitVec 4)
  /-- R_RAM_32_63 (R178). -/
  | rRam32To63 (low : BitVec 5)
  /-- R_RAM_64_127 (R178). -/
  | rRam64To127 (low : BitVec 6)
  /-- R_RAM_128_255 (R178). -/
  | rRam128To255 (low : BitVec 7)
  deriving DecidableEq, Repr

end Sys2Proof
end

