-- ==== Sys2Proof/WellFormed.lean ====
section
/-! DEFINITION. Which instructions are well formed: the ones some word of the opcode table stands for. -/

namespace Sys2Proof

/-- The address byte of an ADDR_OTHER row: `bus_address || direction` (R87). -/
def addressByte (busAddress : BitVec 7) (direction : BitVec 1) : Byte :=
  busAddress ++ direction

/-- ADDR_OTHER is the catch-all row, matched last (R106): its byte is neither `0xA0` nor `0xA1`
(R87). Every other operand may take every value of its width. -/
def Instr.wellFormed : Instr → Bool
  | .addrOther a d => addressByte a d != 0xA0#8 && addressByte a d != 0xA1#8
  | .c0 | .c1 | .d0 | .d1 | .r |
    .clkSameLo _ | .clkSameHi _ | .clkRise _ | .clkFall _ | .datSameLo _ |
    .datSameHi _ | .datRiseClklow | .datFallClklow | .datStart | .datStop |
    .fallIdle | .fallStartWait | .fallGetAddress | .fallAddressWriteAck | .fallAddressReadAck |
    .fallGetRegNr | .fallRegNrAck | .fallReadRegs | .fallReadAck | .fallWriteRegs |
    .fallWriteAck | .slaW | .slaR | .wControl | .wCentiseconds |
    .wSeconds | .wMinutes | .wHours | .wYearDate | .wWeekdayMonth |
    .wTimerDays | .wAlarmControl | .wAlarmCentiseconds | .wAlarmSeconds | .wAlarmMinutes |
    .wAlarmHours | .wAlarmDate | .wAlarmMonth | .wAlarmTimer | .wRam16To31 _ |
    .wRam32To63 _ | .wRam64To127 _ | .wRam128To255 _ | .rControl | .rCentiseconds |
    .rSeconds | .rMinutes | .rHours | .rYearDate | .rWeekdayMonth |
    .rTimerDays | .rAlarmControl | .rAlarmCentiseconds | .rAlarmSeconds | .rAlarmMinutes |
    .rAlarmHours | .rAlarmDate | .rAlarmMonth | .rAlarmTimer | .rRam16To31 _ |
    .rRam32To63 _ | .rRam64To127 _ | .rRam128To255 _ => true

end Sys2Proof
end

