-- ==== Sys2Proof/Decode.lean ====
section
/-! DEFINITION. The opcode map: a decoder for each of the seven formats of the opcode table, total on
every byte and refusing by name, and after it the encoder (R104, R106). -/

namespace Sys2Proof

/-- The seven formats of the opcode table (R106). -/
inductive Format where
  | ev | clk | dat | fall | addr | waddr | raddr
  deriving DecidableEq, Repr

/-- Why a byte is no row of its format (R104, R106). -/
inductive DecodeError where
  /-- A byte above 0x04 is not an event code. -/
  | notAnEvent (code : Byte)
  /-- A CLK or DAT pattern has 3 bits. -/
  | notALinePattern (pattern : Byte)
  /-- A FALL pattern is the code 0..10 of a protocol state. -/
  | notAState (code : Byte)
  deriving DecidableEq, Repr

/-- How many bits a pattern of the format has (R106). -/
def Format.width : Format → Nat
  | .clk | .dat => 3
  | .fall => 4
  | .ev | .addr | .waddr | .raddr => 8

/-- A level as the bit 0 of a byte. -/
def levelBit (x : Level) : Byte := if x then 1#8 else 0#8

/-- Format EV: the one-byte event codes (R104). -/
def decodeEv (b : Byte) : Except DecodeError Instr :=
  if b = 0x00#8 then .ok .c0
  else if b = 0x01#8 then .ok .c1
  else if b = 0x02#8 then .ok .d0
  else if b = 0x03#8 then .ok .d1
  else if b = 0x04#8 then .ok .r
  else .error (.notAnEvent b)

/-- Format CLK: bit 2 the stored clock level, bit 1 the argument, bit 0 the data line (R106). -/
def decodeClk (b : Byte) : Except DecodeError Instr :=
  if b &&& 0xF8#8 = 0 then
    if b &&& 0x06#8 = 0x00#8 then .ok (.clkSameLo (b.getLsbD 0))
    else if b &&& 0x06#8 = 0x06#8 then .ok (.clkSameHi (b.getLsbD 0))
    else if b &&& 0x06#8 = 0x02#8 then .ok (.clkRise (b.getLsbD 0))
    else .ok (.clkFall (b.getLsbD 0))
  else .error (.notALinePattern b)

/-- Format DAT: bit 2 the stored data level, bit 1 the argument, bit 0 the clock line (R106). -/
def decodeDat (b : Byte) : Except DecodeError Instr :=
  if b &&& 0xF8#8 = 0 then
    if b &&& 0x06#8 = 0x00#8 then .ok (.datSameLo (b.getLsbD 0))
    else if b &&& 0x06#8 = 0x06#8 then .ok (.datSameHi (b.getLsbD 0))
    else if b &&& 0x07#8 = 0x02#8 then .ok .datRiseClklow
    else if b &&& 0x07#8 = 0x04#8 then .ok .datFallClklow
    else if b &&& 0x07#8 = 0x05#8 then .ok .datStart
    else .ok .datStop
  else .error (.notALinePattern b)

/-- Format FALL: the code of the protocol state (R30, R106). -/
def decodeFall (b : Byte) : Except DecodeError Instr :=
  if b = 0x00#8 then .ok .fallIdle
  else if b = 0x01#8 then .ok .fallStartWait
  else if b = 0x02#8 then .ok .fallGetAddress
  else if b = 0x03#8 then .ok .fallAddressWriteAck
  else if b = 0x04#8 then .ok .fallAddressReadAck
  else if b = 0x05#8 then .ok .fallGetRegNr
  else if b = 0x06#8 then .ok .fallRegNrAck
  else if b = 0x07#8 then .ok .fallReadRegs
  else if b = 0x08#8 then .ok .fallReadAck
  else if b = 0x09#8 then .ok .fallWriteRegs
  else if b = 0x0A#8 then .ok .fallWriteAck
  else .error (.notAState b)

/-- Format ADDR: all eight bits are compared; the last row takes every other byte (R87). -/
def decodeAddr (b : Byte) : Instr :=
  if b = 0xA0#8 then .slaW
  else if b = 0xA1#8 then .slaR
  else .addrOther (b.extractLsb' 1 7) (b.extractLsb' 0 1)

/-- Format WADDR: the row of a bank write, by address (R106, R190). -/
def decodeWaddr (a : Byte) : Instr :=
  if a = 0x00#8 then .wControl
  else if a = 0x01#8 then .wCentiseconds
  else if a = 0x02#8 then .wSeconds
  else if a = 0x03#8 then .wMinutes
  else if a = 0x04#8 then .wHours
  else if a = 0x05#8 then .wYearDate
  else if a = 0x06#8 then .wWeekdayMonth
  else if a = 0x07#8 then .wTimerDays
  else if a = 0x08#8 then .wAlarmControl
  else if a = 0x09#8 then .wAlarmCentiseconds
  else if a = 0x0A#8 then .wAlarmSeconds
  else if a = 0x0B#8 then .wAlarmMinutes
  else if a = 0x0C#8 then .wAlarmHours
  else if a = 0x0D#8 then .wAlarmDate
  else if a = 0x0E#8 then .wAlarmMonth
  else if a = 0x0F#8 then .wAlarmTimer
  else if a &&& 0xF0#8 = 0x10#8 then .wRam16To31 (a.extractLsb' 0 4)
  else if a &&& 0xE0#8 = 0x20#8 then .wRam32To63 (a.extractLsb' 0 5)
  else if a &&& 0xC0#8 = 0x40#8 then .wRam64To127 (a.extractLsb' 0 6)
  else .wRam128To255 (a.extractLsb' 0 7)

/-- Format RADDR: the row of a bank read, by address (R106, R178). -/
def decodeRaddr (a : Byte) : Instr :=
  if a = 0x00#8 then .rControl
  else if a = 0x01#8 then .rCentiseconds
  else if a = 0x02#8 then .rSeconds
  else if a = 0x03#8 then .rMinutes
  else if a = 0x04#8 then .rHours
  else if a = 0x05#8 then .rYearDate
  else if a = 0x06#8 then .rWeekdayMonth
  else if a = 0x07#8 then .rTimerDays
  else if a = 0x08#8 then .rAlarmControl
  else if a = 0x09#8 then .rAlarmCentiseconds
  else if a = 0x0A#8 then .rAlarmSeconds
  else if a = 0x0B#8 then .rAlarmMinutes
  else if a = 0x0C#8 then .rAlarmHours
  else if a = 0x0D#8 then .rAlarmDate
  else if a = 0x0E#8 then .rAlarmMonth
  else if a = 0x0F#8 then .rAlarmTimer
  else if a &&& 0xF0#8 = 0x10#8 then .rRam16To31 (a.extractLsb' 0 4)
  else if a &&& 0xE0#8 = 0x20#8 then .rRam32To63 (a.extractLsb' 0 5)
  else if a &&& 0xC0#8 = 0x40#8 then .rRam64To127 (a.extractLsb' 0 6)
  else .rRam128To255 (a.extractLsb' 0 7)

/-- The row a byte is in a format (R106): every byte decodes to a row or is refused by name. -/
def decode (f : Format) (b : Byte) : Except DecodeError Instr :=
  match f with
  | .ev => decodeEv b
  | .clk => decodeClk b
  | .dat => decodeDat b
  | .fall => decodeFall b
  | .addr => .ok (decodeAddr b)
  | .waddr => .ok (decodeWaddr b)
  | .raddr => .ok (decodeRaddr b)

/-- The format and the pattern of an instruction (R104, R106). -/
def encode : Instr → Format × Byte
  | .c0 => (.ev, 0x00#8)
  | .c1 => (.ev, 0x01#8)
  | .d0 => (.ev, 0x02#8)
  | .d1 => (.ev, 0x03#8)
  | .r => (.ev, 0x04#8)
  | .clkSameLo x => (.clk, 0x00#8 ||| levelBit x)
  | .clkSameHi x => (.clk, 0x06#8 ||| levelBit x)
  | .clkRise x => (.clk, 0x02#8 ||| levelBit x)
  | .clkFall x => (.clk, 0x04#8 ||| levelBit x)
  | .datSameLo x => (.dat, 0x00#8 ||| levelBit x)
  | .datSameHi x => (.dat, 0x06#8 ||| levelBit x)
  | .datRiseClklow => (.dat, 0x02#8)
  | .datFallClklow => (.dat, 0x04#8)
  | .datStart => (.dat, 0x05#8)
  | .datStop => (.dat, 0x03#8)
  | .fallIdle => (.fall, 0x00#8)
  | .fallStartWait => (.fall, 0x01#8)
  | .fallGetAddress => (.fall, 0x02#8)
  | .fallAddressWriteAck => (.fall, 0x03#8)
  | .fallAddressReadAck => (.fall, 0x04#8)
  | .fallGetRegNr => (.fall, 0x05#8)
  | .fallRegNrAck => (.fall, 0x06#8)
  | .fallReadRegs => (.fall, 0x07#8)
  | .fallReadAck => (.fall, 0x08#8)
  | .fallWriteRegs => (.fall, 0x09#8)
  | .fallWriteAck => (.fall, 0x0A#8)
  | .slaW => (.addr, 0xA0#8)
  | .slaR => (.addr, 0xA1#8)
  | .addrOther a d => (.addr, addressByte a d)
  | .wControl => (.waddr, 0x00#8)
  | .wCentiseconds => (.waddr, 0x01#8)
  | .wSeconds => (.waddr, 0x02#8)
  | .wMinutes => (.waddr, 0x03#8)
  | .wHours => (.waddr, 0x04#8)
  | .wYearDate => (.waddr, 0x05#8)
  | .wWeekdayMonth => (.waddr, 0x06#8)
  | .wTimerDays => (.waddr, 0x07#8)
  | .wAlarmControl => (.waddr, 0x08#8)
  | .wAlarmCentiseconds => (.waddr, 0x09#8)
  | .wAlarmSeconds => (.waddr, 0x0A#8)
  | .wAlarmMinutes => (.waddr, 0x0B#8)
  | .wAlarmHours => (.waddr, 0x0C#8)
  | .wAlarmDate => (.waddr, 0x0D#8)
  | .wAlarmMonth => (.waddr, 0x0E#8)
  | .wAlarmTimer => (.waddr, 0x0F#8)
  | .wRam16To31 low => (.waddr, 1#4 ++ low)
  | .wRam32To63 low => (.waddr, 1#3 ++ low)
  | .wRam64To127 low => (.waddr, 1#2 ++ low)
  | .wRam128To255 low => (.waddr, 1#1 ++ low)
  | .rControl => (.raddr, 0x00#8)
  | .rCentiseconds => (.raddr, 0x01#8)
  | .rSeconds => (.raddr, 0x02#8)
  | .rMinutes => (.raddr, 0x03#8)
  | .rHours => (.raddr, 0x04#8)
  | .rYearDate => (.raddr, 0x05#8)
  | .rWeekdayMonth => (.raddr, 0x06#8)
  | .rTimerDays => (.raddr, 0x07#8)
  | .rAlarmControl => (.raddr, 0x08#8)
  | .rAlarmCentiseconds => (.raddr, 0x09#8)
  | .rAlarmSeconds => (.raddr, 0x0A#8)
  | .rAlarmMinutes => (.raddr, 0x0B#8)
  | .rAlarmHours => (.raddr, 0x0C#8)
  | .rAlarmDate => (.raddr, 0x0D#8)
  | .rAlarmMonth => (.raddr, 0x0E#8)
  | .rAlarmTimer => (.raddr, 0x0F#8)
  | .rRam16To31 low => (.raddr, 1#4 ++ low)
  | .rRam32To63 low => (.raddr, 1#3 ++ low)
  | .rRam64To127 low => (.raddr, 1#2 ++ low)
  | .rRam128To255 low => (.raddr, 1#1 ++ low)

/-- The instruction that arrives at the chip as the word `w`: an event code of one byte (R104). The
other six formats share the same numbers and never arrive from outside; they are decoded inside an
operation (R106, DESIGN CHOICE of log entry 9). -/
def decodeTableWord (nbits w : Nat) : Option Instr :=
  if nbits ≤ 8 ∧ w < 256 then (decode .ev (BitVec.ofNat 8 w)).toOption else none

end Sys2Proof
end

