-- ==== Sys2Proof/Machine/Operands.lean ====
section
/-! DEFINITION. Operand forms: BCD, and how the packed registers 4, 5 and 6 are put together and taken
apart (R95 to R97, R100, R101, R108). -/

namespace Sys2Proof.Machine

/-- `bcd(n)`: tens in the high nibble, units in the low nibble (R100). -/
def bcd (n : Nat) : Byte :=
  (BitVec.ofNat 8 (n / 10) <<< 4) ||| BitVec.ofNat 8 (n % 10)

/-- `unbcd(v)`: total, a nibble above 9 is weighed as it stands (R101). -/
def unbcd (v : Byte) : Nat :=
  (v >>> 4).toNat * 10 + (v &&& 0x0F#8).toNat

/-- `enc(n, bcd)`: a number as a byte in the BCD or the binary mode (R235, R247). -/
def encodeNumber (n : Nat) (inBcd : Bool) : Byte :=
  if inBcd then bcd n else BitVec.ofNat 8 n

/-- `dec(v, bcd)`: the number a byte stands for in the BCD or the binary mode (R248). -/
def decodeNumber (v : Byte) (inBcd : Bool) : Nat :=
  if inBcd then unbcd v else v.toNat

/-- The 12-hour value of an hour of the day: hours 0 and 12 are 12 (R238). -/
def hour12 (hour : Nat) : Nat :=
  if hour % 12 = 0 then 12 else hour % 12

/-- The format of `get_hour_am_pm`: the 12-hour value in bits 4..0 and PM in bit 5 (R238). -/
def encodeHourAmPm (hour : Nat) (inBcd : Bool) : Byte :=
  encodeNumber (hour12 hour) inBcd ||| (if 12 ≤ hour then 0x20#8 else 0x00#8)

/-- The hour register from the 12-hour format: the mode flag in bit 7, and the PM mark moved from
bit 5 to bit 6 (R165). -/
def hourRegister12 (raw : Byte) : Byte :=
  let tmp := 0x80#8 ||| raw
  if tmp &&& 0x20#8 ≠ 0 then (tmp &&& 0xDF#8) ||| 0x40#8 else tmp

/-- The 12-hour format from a written hour byte: the PM mark moved from bit 6 to bit 5, bit 5 of the
written byte dropped (R195). -/
def hourOperand12 (v : Byte) : Byte :=
  (v &&& 0x1F#8) ||| (if v.getLsbD 6 then 0x20#8 else 0x00#8)

/-- The 24-hour value of a written hour byte: bit 6 is dropped (R195). -/
def hourOperand24 (v : Byte) : Byte := v &&& 0x3F#8

/-- Register 5 from the day byte and the year (R166). -/
def packYearDate (day year : Byte) : Byte := day ||| ((year &&& 3#8) <<< 6)

/-- The day field of a written register 5 (R196). -/
def dayOperand (v : Byte) : Byte := v &&& 0x3F#8

/-- The year a written register 5 asks for: the 4-year block of `year` kept, its position in the block
replaced by bits 7..6 (R196). -/
def yearOperand (v year : Byte) : Byte :=
  BitVec.ofNat 8 (year.toNat - year.toNat % 4 + (v >>> 6).toNat)

/-- Register 6 from the month byte and the weekday (R167). -/
def packWeekdayMonth (month weekday : Byte) : Byte := month ||| (((weekday + 1) &&& 7#8) <<< 5)

/-- The month field of a written register 6 (R197). -/
def monthOperand (v : Byte) : Byte := v &&& 0x1F#8

/-- The weekday a written register 6 asks for (R197). -/
def weekdayOperand (v : Byte) : Byte := BitVec.ofNat 8 (((v >>> 5).toNat + 6) % 7)

end Sys2Proof.Machine
end

