-- ==== Sys2Proof/Machine/TimeBackend.lean ====
section
/-! DEFINITION. The time backend: the record of functions the register bank calls and the contract it
may assume of them (R235 to R244). -/

namespace Sys2Proof.Machine

/-- The settable fields of a time value (R199). -/
inductive Field where
  | second | minute | hour | hourAmPm | dayOfMonth | month | year | weekday
  deriving DecidableEq, Repr

/-- The numbers a field takes; for `hourAmPm` the number is the hour of the day (R237 to R241). -/
def Field.inRange : Field → Nat → Bool
  | .second, n | .minute, n => n < 60
  | .hour, n | .hourAmPm, n => n < 24
  | .dayOfMonth, n => 1 ≤ n && n ≤ 31
  | .month, n => 1 ≤ n && n ≤ 12
  | .year, n => n < 100
  | .weekday, n => n < 7

/-- The byte that stands for the number `n` of a field in the BCD or the binary mode: the 12-hour
format for `hourAmPm` (R238), no mode for `weekday` (R241). -/
def Field.encode : Field → Nat → Bool → Byte
  | .hourAmPm, n, b => encodeHourAmPm n b
  | .weekday, n, _ => BitVec.ofNat 8 n
  | .second, n, b | .minute, n, b | .hour, n, b | .dayOfMonth, n, b | .month, n, b | .year, n, b =>
    encodeNumber n b

/-- The six fields that name a date and a time of day (R242). -/
def Field.dateAndTime : List Field :=
  [.second, .minute, .hour, .dayOfMonth, .month, .year]

/-- The field among `dateAndTime` that setting a field changes: `hourAmPm` changes the hour (R242). -/
def Field.base : Field → Field
  | .hourAmPm => .hour
  | f => f

/-- The accessors of the time backend that depend on the calendar: `get f t bcd` is `TB.get_f(t, bcd)`
and `setLatched f v bcd t` is `TB.set_latched_f(v, t, bcd)` = `SetField(f, v, bcd, t)` (R235, R242). -/
structure TimeBackend where
  get : Field → Int → Bool → Byte
  setLatched : Field → Byte → Bool → Int → Int
  deriving Inhabited

/-- `TB.get_centisecond(bcd)`, always live from the host's sub-second count (R236). -/
def getCentisecond (cs : Nat) (inBcd : Bool) : Byte := encodeNumber cs inBcd

/-- `TB.get_latch(offset)` = `now(offset)` (R223). -/
def getLatch (hostNow : Int) (offset : Int) : Int := hostNow + offset

/-- `TB.set_f(value, offset, bcd)`: the offset moves as much as the field change moves the time (R243). -/
def TimeBackend.setOffset (tb : TimeBackend) (f : Field) (value : Byte) (inBcd : Bool)
    (hostNow : Int) (offset : Int) : Int :=
  let t := getLatch hostNow offset
  offset + (tb.setLatched f value inBcd t - t)

/-- The number a field of `t` has, read through the binary getter (R237 to R241). -/
def TimeBackend.number (tb : TimeBackend) (f : Field) (t : Int) : Nat :=
  (tb.get f.base t false).toNat

/-- The number of a field of `t` once `n` has replaced the number of the field `f`. -/
def TimeBackend.numberWith (tb : TimeBackend) (f : Field) (n : Nat) (t : Int) (g : Field) : Nat :=
  if g = f then n else tb.number g t

/-- `t'` has the number `n` in the field `f` and the numbers of `t` in the other fields of a list. -/
def TimeBackend.Replaces (tb : TimeBackend) (fields : List Field) (f : Field) (n : Nat)
    (t t' : Int) : Prop :=
  ∀ g ∈ fields, tb.number g t' = tb.numberWith f n t g

/-- From one time to another the number of `get_year` only stays or advances by one: the two lie in one
century, whose end it shows by falling back (R240, DEDUCED in log entry 3). -/
def TimeBackend.SameCentury (tb : TimeBackend) (t t' : Int) : Prop :=
  ∀ u, min t t' ≤ u → u < max t t' →
    tb.number .year (u + 1) = tb.number .year u ∨ tb.number .year (u + 1) = tb.number .year u + 1

/-- The date of `t` with the number `n` in the field `f` exists: the backend itself shows it at some time
of the same century (R240, R242(b), DEDUCED in log entry 3). -/
def TimeBackend.DateExists (tb : TimeBackend) (f : Field) (n : Nat) (t : Int) : Prop :=
  ∃ t₀, tb.SameCentury t t₀ ∧ tb.Replaces [.dayOfMonth, .month, .year] f n t t₀

/-- `t'` has the weekday `n` and the time of day of `t`, fewer than 7 days from it (R242(b)). -/
def TimeBackend.MovesToWeekday (tb : TimeBackend) (n : Nat) (t t' : Int) : Prop :=
  tb.number .weekday t' = n ∧
    (∀ g ∈ [Field.second, .minute, .hour], tb.number g t' = tb.number g t) ∧
    -(7 * 86400) < t' - t ∧ t' - t < 7 * 86400

/-- The contract of the time backend, all that may be assumed of it (R236 to R244). -/
structure TimeBackend.Conforms (tb : TimeBackend) : Prop where
  /-- A getter returns its field's number in the mode asked for (R237 to R241). -/
  get_encodes : ∀ (f : Field) t b, tb.get f t b = f.encode (tb.number f t) b
  /-- The number lies in the field's range (R237 to R241). -/
  number_inRange : ∀ (f : Field) t, f.inRange (tb.number f t) = true
  /-- Writing a field's current value changes nothing (R242(c)). -/
  set_current : ∀ f b t, tb.setLatched f (tb.get f t b) b t = t
  /-- Setting a field of the time of day sets it and keeps the other fields (R242(b)). -/
  set_timeOfDay : ∀ (f : Field) n b t,
    f ∈ [Field.second, .minute, .hour, .hourAmPm] → f.inRange n = true →
    tb.Replaces Field.dateAndTime f.base n t (tb.setLatched f (f.encode n b) b t)
  /-- Setting a field of the date to a date that exists sets it and keeps the other fields (R242(b)). -/
  set_date : ∀ (f : Field) n b t, f ∈ [Field.dayOfMonth, .month, .year] → f.inRange n = true →
    tb.DateExists f n t →
    tb.Replaces Field.dateAndTime f n t (tb.setLatched f (f.encode n b) b t)
  /-- Setting the year leaves the century (R240). -/
  set_year_century : ∀ n b t, Field.year.inRange n = true → tb.DateExists .year n t →
    tb.SameCentury t (tb.setLatched .year (Field.year.encode n b) b t)
  /-- Setting the weekday to one that a date fewer than 7 days away has keeps the time of day and moves
  the date to such a date (R242(b)). -/
  set_weekday : ∀ n b t, Field.weekday.inRange n = true → (∃ t₀, tb.MovesToWeekday n t t₀) →
    tb.MovesToWeekday n t (tb.setLatched .weekday (Field.weekday.encode n b) b t)

end Sys2Proof.Machine
end

