-- ==== Sys2Proof/Machine/ReferenceBackend.lean ====
section
/-! DEFINITION. The reference backend `TB_ref`: the proleptic Gregorian calendar in UTC on a count of
seconds from 1970-01-01 (R245 to R251). -/

namespace Sys2Proof.Machine

/-- A calendar date. -/
structure Date where
  year : Int
  month : Int
  day : Int
  deriving DecidableEq, Repr

/-- `days_from_civil`: days from 1970-01-01 to a date (R245). Lean's `/` and `%` by a positive number
are the floor division and the remainder of R8. -/
def daysFromCivil (y m d : Int) : Int :=
  let y1 := y - (if m ≤ 2 then 1 else 0)
  let era := y1 / 400
  let yoe := y1 - era * 400
  let mp := (m + 9) % 12
  let doy := (153 * mp + 2) / 5 + d - 1
  let doe := yoe * 365 + yoe / 4 - yoe / 100 + doy
  era * 146097 + doe - 719468

/-- The year of the era from the day of the era (R245). -/
def yearOfEra (doe : Int) : Int :=
  (doe - doe / 1460 + doe / 36524 - doe / 146096) / 365

/-- `civil_from_days` (R245). -/
def civilFromDays (z : Int) : Date :=
  let z1 := z + 719468
  let era := z1 / 146097
  let doe := z1 - era * 146097
  let yoe := yearOfEra doe
  let doy := doe - (365 * yoe + yoe / 4 - yoe / 100)
  let mp := (5 * doy + 2) / 153
  let d := doy - (153 * mp + 2) / 5 + 1
  let m := if mp < 10 then mp + 3 else mp - 9
  { year := yoe + era * 400 + (if m ≤ 2 then 1 else 0), month := m, day := d }

/-- The days of `Fields(t)` (R246). -/
def daysOf (t : Int) : Int := t / 86400

/-- The second of the day of `Fields(t)` (R246). -/
def secondOfDay (t : Int) : Int := t % 86400

/-- The date of `Fields(t)` (R246). -/
def dateOf (t : Int) : Date := civilFromDays (daysOf t)

/-- The field of `Fields(t)` as an integer; the year is the year within its century (R246, R247). -/
def fieldOf : Field → Int → Int
  | .second, t => secondOfDay t % 60
  | .minute, t => secondOfDay t % 3600 / 60
  | .hour, t | .hourAmPm, t => secondOfDay t / 3600
  | .dayOfMonth, t => (dateOf t).day
  | .month, t => (dateOf t).month
  | .year, t => (dateOf t).year % 100
  | .weekday, t => (daysOf t + 4) % 7

/-- `Recompose(Y', M', D, sod)`: the month may lie outside 1..12 and carries into the year (R250). -/
def recompose (y m d sod : Int) : Int :=
  let yn := y + (m - 1) / 12
  let mn := (m - 1) % 12 + 1
  (daysFromCivil yn mn 1 + (d - 1)) * 86400 + sod

/-- `SetField` of `TB_ref` (R248 to R251). -/
def referenceSetField (f : Field) (v : Byte) (inBcd : Bool) (t : Int) : Int :=
  let n : Int := decodeNumber v inBcd
  match f with
  | .second => t + (n - fieldOf .second t)
  | .minute => t + (n - fieldOf .minute t) * 60
  | .hour => t + (n - fieldOf .hour t) * 3600
  | .hourAmPm =>
    let pm : Int := if v.getLsbD 5 then 1 else 0
    let h12 : Int := decodeNumber (v &&& 0x1F#8) inBcd
    t + ((h12 % 12 + 12 * pm) - fieldOf .hour t) * 3600
  | .dayOfMonth => t + (n - fieldOf .dayOfMonth t) * 86400
  | .month => recompose (dateOf t).year n (dateOf t).day (secondOfDay t)
  | .year =>
    recompose ((dateOf t).year - (dateOf t).year % 100 + n) (dateOf t).month (dateOf t).day
      (secondOfDay t)
  | .weekday => t + ((v.toNat : Int) - fieldOf .weekday t) * 86400

/-- `TB_ref` (R247 to R251). -/
def referenceBackend : TimeBackend where
  get f t inBcd := f.encode (fieldOf f t).toNat inBcd
  setLatched := referenceSetField

/-- The year number of a time in `TB_ref` (R246). -/
def referenceYear (t : Int) : Int := (dateOf t).year

end Sys2Proof.Machine
end

