-- ==== Sys2Proof/Machine/ReferenceCalendar.lean ====
section
/-! DEFINITION. The calendar arithmetic of `TB_ref`: `days_from_civil` and `civil_from_days` are inverse on
the dates that exist (R245), and the year number advances by steps of one. -/

namespace Sys2Proof.Machine

/-- The day of the year that `civil_from_days` computes lies in 0..365. -/
theorem dayOfYear_bounds (doe : Int) (h0 : 0 ≤ doe) (h1 : doe < 146097) :
    0 ≤ doe - (365 * yearOfEra doe + yearOfEra doe / 4 - yearOfEra doe / 100) ∧
    doe - (365 * yearOfEra doe + yearOfEra doe / 4 - yearOfEra doe / 100) ≤ 365 := by
  by_cases hlast : doe = 146096
  · subst hlast; decide
  obtain ⟨c, hc⟩ : ∃ c, c = doe / 36524 := ⟨_, rfl⟩
  obtain ⟨q, hq⟩ : ∃ q, q = doe / 1460 := ⟨_, rfl⟩
  obtain ⟨y, hy⟩ : ∃ y, y = yearOfEra doe := ⟨_, rfl⟩
  obtain ⟨f, hf⟩ : ∃ f, f = y / 4 := ⟨_, rfl⟩
  have hyd : y = (doe - doe / 1460 + c) / 365 := by
    rw [hy, yearOfEra, hc]; omega
  have hcases : c = 0 ∨ c = 1 ∨ c = 2 ∨ c = 3 := by omega
  have hcentury : y / 100 = c := by rcases hcases with rfl | rfl | rfl | rfl <;> omega
  have hquad : f = q ∨ f = q - 1 ∨ f = q + 1 := by
    rcases hcases with rfl | rfl | rfl | rfl <;> omega
  rw [← hy, hcentury, ← hf]
  rcases hquad with h | h | h <;> subst h <;> rcases hcases with rfl | rfl | rfl | rfl <;> omega

/-- The year of the era lies in 0..399. -/
theorem yearOfEra_bounds (doe : Int) (h0 : 0 ≤ doe) (h1 : doe < 146097) :
    0 ≤ yearOfEra doe ∧ yearOfEra doe ≤ 399 := by
  unfold yearOfEra; omega

/-- `days_from_civil` of a date given by its era, its year of the era and its day of the year, both
counted from March (R245). -/
theorem daysFromCivil_marchDate (era yoe doy mp : Int) (hy0 : 0 ≤ yoe) (hy1 : yoe ≤ 399)
    (hm0 : 0 ≤ mp) (hm1 : mp ≤ 11) :
    daysFromCivil (yoe + era * 400 + (if (if mp < 10 then mp + 3 else mp - 9) ≤ 2 then 1 else 0))
      (if mp < 10 then mp + 3 else mp - 9) (doy - (153 * mp + 2) / 5 + 1) =
    era * 146097 + (yoe * 365 + yoe / 4 - yoe / 100 + doy) - 719468 := by
  have hback : ((if mp < 10 then mp + 3 else mp - 9) + 9) % 12 = mp := by split <;> omega
  have hera : (yoe + era * 400) / 400 = era := by omega
  simp only [daysFromCivil, add_sub_cancel_right, hback, hera]
  omega

/-- The month counted from March lies in 0..11 and the day of the month in 1..31. -/
theorem marchMonth_bounds (doy mp : Int) (h0 : 0 ≤ doy) (h1 : doy ≤ 365)
    (hmp : mp = (5 * doy + 2) / 153) :
    0 ≤ mp ∧ mp ≤ 11 ∧ 1 ≤ doy - (153 * mp + 2) / 5 + 1 ∧ doy - (153 * mp + 2) / 5 + 1 ≤ 31 := by
  omega

/-- The day of the era of a day count lies in the era. -/
theorem dayOfEra_bounds (z : Int) :
    0 ≤ z - z / 146097 * 146097 ∧ z - z / 146097 * 146097 < 146097 := by omega

/-- `civil_from_days` followed by `days_from_civil` is the identity (R245). -/
theorem daysFromCivil_civilFromDays (z : Int) :
    daysFromCivil (civilFromDays z).year (civilFromDays z).month (civilFromDays z).day = z := by
  obtain ⟨h0, h1⟩ := dayOfEra_bounds (z + 719468)
  obtain ⟨hd0, hd1⟩ := dayOfYear_bounds _ h0 h1
  obtain ⟨hy0, hy1⟩ := yearOfEra_bounds _ h0 h1
  obtain ⟨hm0, hm1, -, -⟩ := marchMonth_bounds _ _ hd0 hd1 rfl
  refine (daysFromCivil_marchDate _ _ _ _ hy0 hy1 hm0 hm1).trans ?_
  omega

/-- `civil_from_days` answers a month 1..12 and a day 1..31 (R239). -/
theorem civilFromDays_ranges (z : Int) :
    1 ≤ (civilFromDays z).month ∧ (civilFromDays z).month ≤ 12 ∧
    1 ≤ (civilFromDays z).day ∧ (civilFromDays z).day ≤ 31 := by
  obtain ⟨h0, h1⟩ := dayOfEra_bounds (z + 719468)
  obtain ⟨hd0, hd1⟩ := dayOfYear_bounds _ h0 h1
  obtain ⟨hm0, hm1, h2, h3⟩ := marchMonth_bounds _ _ hd0 hd1 rfl
  refine ⟨?_, ?_, h2, h3⟩
  all_goals
    simp only [civilFromDays]
    split <;> omega

/-- `days_from_civil` is linear in the day (R245). -/
theorem daysFromCivil_day (y m d e : Int) :
    daysFromCivil y m d = daysFromCivil y m e + (d - e) := by
  simp only [daysFromCivil]; omega

/-- A day of the era lies before the first day of the next year of the era. -/
theorem dayOfYear_lt (doe : Int) (h0 : 0 ≤ doe) (h1 : doe < 146097) :
    doe < 365 * (yearOfEra doe + 1) + (yearOfEra doe + 1) / 4 - (yearOfEra doe + 1) / 100 +
      (yearOfEra doe + 1) / 400 := by
  by_cases hlast : doe = 146096
  · subst hlast; decide
  obtain ⟨c, hc⟩ : ∃ c, c = doe / 36524 := ⟨_, rfl⟩
  obtain ⟨q, hq⟩ : ∃ q, q = doe / 1460 := ⟨_, rfl⟩
  obtain ⟨y, hy⟩ : ∃ y, y = yearOfEra doe := ⟨_, rfl⟩
  have hyd : y = (doe - doe / 1460 + c) / 365 := by
    rw [hy, yearOfEra, hc]; omega
  have hcases : c = 0 ∨ c = 1 ∨ c = 2 ∨ c = 3 := by omega
  have hcentury : y / 100 = c := by rcases hcases with rfl | rfl | rfl | rfl <;> omega
  rw [← hy]
  obtain ⟨e, he⟩ : ∃ e, e = (y + 1) / 100 := ⟨_, rfl⟩
  obtain ⟨g, hg⟩ : ∃ g, g = (y + 1) / 400 := ⟨_, rfl⟩
  obtain ⟨f, hf⟩ : ∃ f, f = (y + 1) / 4 := ⟨_, rfl⟩
  have he' : e = c ∨ (e = c + 1 ∧ y = 100 * c + 99) := by omega
  have hfq : f = q ∨ f = q + 1 ∨ f = q - 1 := by
    rcases hcases with rfl | rfl | rfl | rfl <;> omega
  rw [← he, ← hg, ← hf]
  rcases hfq with h | h | h <;> subst h <;> rcases he' with rfl | ⟨rfl, h'⟩ <;>
    rcases hcases with rfl | rfl | rfl | rfl <;> omega

/-- The day of the era on which a year counted from March starts, era by era. -/
def yearStart (y : Int) : Int := 365 * y + y / 4 - y / 100 + y / 400

/-- The date of a day of a year counted from March, as `civil_from_days` computes it (R245). -/
def marchDate (y doy : Int) : Date :=
  let mp := (5 * doy + 2) / 153
  let m := if mp < 10 then mp + 3 else mp - 9
  { year := y + (if m ≤ 2 then 1 else 0), month := m, day := doy - (153 * mp + 2) / 5 + 1 }

/-- An era has 400 years and 146097 days. -/
theorem yearStart_era (y e : Int) : yearStart (y + e * 400) = yearStart y + e * 146097 := by
  have h1 : (y + e * 400) / 4 = y / 4 + e * 100 := by omega
  have h2 : (y + e * 400) / 100 = y / 100 + e * 4 := by omega
  have h3 : (y + e * 400) / 400 = y / 400 + e := by omega
  unfold yearStart; rw [h1, h2, h3]; omega

/-- Later years have no fewer leap days before them. -/
theorem leapDays_mono (y y' : Int) (h : y ≤ y') :
    y / 4 - y / 100 + y / 400 ≤ y' / 4 - y' / 100 + y' / 400 := by
  have e1 : ∀ x : Int, x / 100 = x / 4 / 25 := fun x => by omega
  have h1 : y / 4 - y / 4 / 25 ≤ y' / 4 - y' / 4 / 25 := by
    have : y / 4 ≤ y' / 4 := by omega
    generalize y / 4 = a at *; generalize y' / 4 = b at *; omega
  have h2 : y / 400 ≤ y' / 400 := by omega
  rw [e1, e1]; omega

/-- A day lies in one year. -/
theorem year_unique (y y' n : Int) (h0 : yearStart y ≤ n) (h1 : n < yearStart (y + 1))
    (k0 : yearStart y' ≤ n) (k1 : n < yearStart (y' + 1)) : y = y' := by
  rcases lt_trichotomy y y' with h | h | h
  · have := leapDays_mono (y + 1) y' h
    unfold yearStart at *; omega
  · exact h
  · have := leapDays_mono (y' + 1) y h
    unfold yearStart at *; omega

/-- `civil_from_days` finds the year counted from March in which the day lies, and the date in it. -/
theorem civilFromDays_march (z : Int) : ∃ y, yearStart y ≤ z + 719468 ∧
    z + 719468 < yearStart (y + 1) ∧
    civilFromDays z = marchDate y (z + 719468 - yearStart y) := by
  obtain ⟨h0, h1⟩ := dayOfEra_bounds (z + 719468)
  have hd0 := (dayOfYear_bounds _ h0 h1).1
  have hl := dayOfYear_lt _ h0 h1
  obtain ⟨hy0, hy1⟩ := yearOfEra_bounds _ h0 h1
  have hs : ∀ y : Int, 0 ≤ y → y ≤ 399 → yearStart y = 365 * y + y / 4 - y / 100 := by
    intro y _ _; unfold yearStart; omega
  have hs := hs _ hy0 hy1
  refine ⟨yearOfEra (z + 719468 - (z + 719468) / 146097 * 146097) + (z + 719468) / 146097 * 400,
    ?_, ?_, ?_⟩
  · rw [yearStart_era, hs]; omega
  · rw [add_right_comm, yearStart_era]; unfold yearStart; omega
  · rw [yearStart_era, hs, ← sub_sub, sub_right_comm]
    rfl

/-- `days_from_civil` counts from the start of the year counted from March. -/
theorem daysFromCivil_eq (y m d : Int) : daysFromCivil y m d =
    yearStart (y - if m ≤ 2 then 1 else 0) + (153 * ((m + 9) % 12) + 2) / 5 + d - 1 - 719468 := by
  simp only [daysFromCivil]
  generalize y - (if m ≤ 2 then 1 else 0) = y1
  have := yearStart_era (y1 - y1 / 400 * 400) (y1 / 400)
  rw [sub_add_cancel] at this
  rw [this]; unfold yearStart; omega

/-- A year with a 29 February in the Gregorian calendar of `TB_ref`. -/
def isLeapYear (y : Int) : Bool := y % 4 == 0 && (y % 100 != 0 || y % 400 == 0)

/-- The number of days of a month 1..12 in the Gregorian calendar of `TB_ref`. -/
def daysInMonth (y : Int) (m : Nat) : Nat :=
  if m = 2 then (if isLeapYear y then 29 else 28) else if m ∈ [4, 6, 9, 11] then 30 else 31

/-- The leap years. -/
theorem isLeapYear_iff (y : Int) :
    isLeapYear y = true ↔ y % 4 = 0 ∧ (y % 100 ≠ 0 ∨ y % 400 = 0) := by
  simp only [isLeapYear, Bool.and_eq_true, Bool.or_eq_true, beq_iff_eq, bne_iff_ne]

/-- The days of February. -/
theorem daysInFebruary (y : Int) : daysInMonth y 2 = if isLeapYear y then 29 else 28 := rfl

/-- The length of a year counted from March: 337 days and the February at its end. -/
theorem yearStart_succ (y : Int) : yearStart (y + 1) = yearStart y + 337 + daysInMonth (y + 1) 2 := by
  have h1 : (y + 1) / 4 = y / 4 + if (y + 1) % 4 = 0 then 1 else 0 := by omega
  have h2 : (y + 1) / 100 = y / 100 + if (y + 1) % 100 = 0 then 1 else 0 := by omega
  have h3 : (y + 1) / 400 = y / 400 + if (y + 1) % 400 = 0 then 1 else 0 := by omega
  simp only [daysInFebruary, isLeapYear_iff, yearStart, h1, h2, h3]
  split_ifs <;> omega

/-- February has 28 or 29 days. -/
theorem daysInFebruary_bounds (y : Int) : 28 ≤ daysInMonth y 2 ∧ daysInMonth y 2 ≤ 29 := by
  rw [daysInFebruary]; split <;> omega

/-- A day takes the year number to itself or to the next. -/
theorem civil_year_step (z : Int) :
    (civilFromDays z).year ≤ (civilFromDays (z + 1)).year ∧
    (civilFromDays (z + 1)).year ≤ (civilFromDays z).year + 1 := by
  obtain ⟨y, h0, h1, h⟩ := civilFromDays_march z
  obtain ⟨y', k0, k1, k⟩ := civilFromDays_march (z + 1)
  have hl := yearStart_succ y
  have hl' := yearStart_succ y'
  have hb := daysInFebruary_bounds (y + 1)
  have hb' := daysInFebruary_bounds (y' + 1)
  rw [h, k]
  by_cases hy : yearStart (y + 1) ≤ z + 1 + 719468
  · have : y' = y + 1 := by
      have hl := yearStart_succ (y + 1)
      have hb := daysInFebruary_bounds (y + 1 + 1)
      exact year_unique _ _ _ k0 k1 hy (by omega)
    subst this
    simp only [marchDate]; constructor <;> omega
  · have : y' = y := year_unique _ _ _ k0 k1 (by omega) (by omega)
    subst this
    simp only [marchDate]; constructor <;> omega

/-- A date that exists lies in its year counted from March, at its day. -/
theorem marchDate_of_date (y : Int) (m d : Nat) (hm : 1 ≤ m ∧ m ≤ 12)
    (hd : 1 ≤ d ∧ d ≤ daysInMonth y m) :
    (153 * (((m : Int) + 9) % 12) + 2) / 5 + d - 1 <
      337 + daysInMonth (y - (if (m : Int) ≤ 2 then 1 else 0) + 1) 2 ∧
    marchDate (y - if (m : Int) ≤ 2 then 1 else 0) ((153 * (((m : Int) + 9) % 12) + 2) / 5 + d - 1) =
      { year := y, month := m, day := d } := by
  obtain ⟨h1, h12⟩ := hm
  have hb := daysInFebruary_bounds (y + 1)
  simp only [marchDate, Date.mk.injEq]
  interval_cases m <;> cases hl : isLeapYear y <;> simp [daysInMonth, hl] at hd hb ⊢ <;> omega

/-- `days_from_civil` followed by `civil_from_days` is the identity on the dates that exist (R245). -/
theorem civilFromDays_daysFromCivil (y : Int) (m d : Nat) (hm : 1 ≤ m ∧ m ≤ 12)
    (hd : 1 ≤ d ∧ d ≤ daysInMonth y m) :
    civilFromDays (daysFromCivil y m d) = { year := y, month := m, day := d } := by
  obtain ⟨y', k0, k1, k⟩ := civilFromDays_march (daysFromCivil y m d)
  obtain ⟨h0, h1⟩ := marchDate_of_date y m d hm hd
  have hx := yearStart_succ (y - if (m : Int) ≤ 2 then 1 else 0)
  rw [daysFromCivil_eq] at *
  have hy := year_unique y' (y - if (m : Int) ≤ 2 then 1 else 0) _ k0 k1 (by omega) (by omega)
  rw [k, hy, ← h1]
  congr 1; omega

end Sys2Proof.Machine
end

