-- ==== Sys2Proof/Machine/ReferenceContract.lean ====
section
/-! DEFINITION. A time backend paired with the contract it meets, inhabited by `TB_ref`: the proof that
the reference backend meets R236 to R243 (R252). -/

namespace Sys2Proof.Machine

/-- A time is its date and its second of the day. -/
theorem time_of_date (t : Int) :
    t = daysFromCivil (dateOf t).year (dateOf t).month (dateOf t).day * 86400 + secondOfDay t := by
  rw [dateOf, daysFromCivil_civilFromDays, daysOf, secondOfDay]; omega

/-- Every field of `TB_ref` lies in its range (R237 to R241). -/
theorem fieldOf_inRange (f : Field) (t : Int) :
    0 ≤ fieldOf f t ∧ f.inRange (fieldOf f t).toNat = true := by
  obtain ⟨h1, h2, h3, h4⟩ := civilFromDays_ranges (daysOf t)
  cases f <;> simp only [Field.inRange, Bool.and_eq_true, decide_eq_true_eq] <;>
    simp only [fieldOf, dateOf, secondOfDay, daysOf] at * <;> omega

/-- Numbers in range are below 100. -/
theorem inRange_lt (f : Field) (n : Nat) (h : f.inRange n = true) : n < 100 := by
  cases f <;> simp only [Field.inRange, Bool.and_eq_true, decide_eq_true_eq] at h <;> omega

/-- Decoding a number below 100 from its byte gives it back, in both modes (R100, R101). -/
theorem decodeNumber_encodeNumber (n : Nat) (b : Bool) (h : n < 100) :
    decodeNumber (encodeNumber n b) b = n := by
  revert b
  have : ∀ m : Fin 100, ∀ b : Bool, decodeNumber (encodeNumber m b) b = m := by decide +kernel
  exact fun b => this ⟨n, h⟩ b

/-- Decoding the 12-hour format gives the hour back (R238, R248). -/
theorem decode_encodeHourAmPm (n : Nat) (b : Bool) (h : n < 24) :
    ((decodeNumber (Field.hourAmPm.encode n b &&& 0x1F#8) b : Nat) : Int) % 12 +
      12 * (if (Field.hourAmPm.encode n b).getLsbD 5 then 1 else 0) = n := by
  revert b
  have : ∀ m : Fin 24, ∀ b : Bool,
      ((decodeNumber (Field.hourAmPm.encode m b &&& 0x1F#8) b : Nat) : Int) % 12 +
        12 * (if (Field.hourAmPm.encode m b).getLsbD 5 then 1 else 0) = m := by decide +kernel
  exact fun b => this ⟨n, h⟩ b

/-- The setters of `TB_ref` are its `SetField`. -/
theorem referenceBackend_setLatched (f : Field) (v : Byte) (b : Bool) (t : Int) :
    referenceBackend.setLatched f v b t = referenceSetField f v b t := rfl

/-- The number the contract reads of `TB_ref` is the field of R246. -/
theorem referenceBackend_number (f : Field) (t : Int) :
    referenceBackend.number f t = (fieldOf f t).toNat := by
  have h : (fieldOf f.base t).toNat < 100 :=
    inRange_lt _ _ (fieldOf_inRange f.base t).2
  have e : (f.base.encode (fieldOf f.base t).toNat false).toNat = (fieldOf f.base t).toNat := by
    cases f <;> simp only [Field.base, Field.encode, encodeNumber, BitVec.toNat_ofNat] at * <;>
      simp <;> omega
  rw [TimeBackend.number, referenceBackend, e]
  cases f <;> rfl

/-- Two times with the same date and second of the day agree in every field. -/
theorem number_of_fields (t t' : Int) (n : Nat) (f : Field)
    (h : ∀ g ∈ Field.dateAndTime, fieldOf g t' = if g = f then (n : Int) else fieldOf g t) :
    referenceBackend.Replaces Field.dateAndTime f n t t' := by
  intro g hg
  rw [TimeBackend.numberWith, referenceBackend_number, referenceBackend_number, h g hg]
  split <;> simp

/-- Setting second, minute or hour by the difference keeps the days and sets the field (R248). -/
theorem referenceSetField_timeOfDay (f : Field) (n : Nat) (b : Bool) (t : Int)
    (hf : f ∈ [Field.second, .minute, .hour, .hourAmPm]) (hn : f.inRange n = true) :
    daysOf (referenceSetField f (f.encode n b) b t) = daysOf t ∧
    ∀ g ∈ Field.dateAndTime, fieldOf g (referenceSetField f (f.encode n b) b t) =
      if g = f.base then (n : Int) else fieldOf g t := by
  have h100 := inRange_lt f n hn
  obtain ⟨d, hd⟩ : ∃ d, d = referenceSetField f (f.encode n b) b t := ⟨_, rfl⟩
  rw [← hd]
  have key : daysOf d = daysOf t ∧
      secondOfDay d % 60 = (if f = .second then (n : Int) else secondOfDay t % 60) ∧
      secondOfDay d % 3600 / 60 = (if f = .minute then (n : Int) else secondOfDay t % 3600 / 60) ∧
      secondOfDay d / 3600 =
        (if f = .hour ∨ f = .hourAmPm then (n : Int) else secondOfDay t / 3600) := by
    have e := decodeNumber_encodeNumber n b h100
    simp only [List.mem_cons, List.not_mem_nil, or_false] at hf
    rcases hf with rfl | rfl | rfl | rfl
    all_goals simp only [Field.inRange, decide_eq_true_eq] at hn
    case inr.inr.inr =>
      simp only [referenceSetField, decode_encodeHourAmPm n b hn, fieldOf] at hd
      simp only [daysOf, secondOfDay, reduceCtorEq, if_false, if_true, or_true] at *
      omega
    all_goals
      simp only [referenceSetField, Field.encode, e, fieldOf] at hd
      simp only [daysOf, secondOfDay, reduceCtorEq, if_false, if_true, or_false] at *
      omega
  obtain ⟨k1, k2, k3, k4⟩ := key
  refine ⟨k1, fun g hg => ?_⟩
  simp only [Field.dateAndTime, List.mem_cons, List.not_mem_nil, or_false] at hf hg
  rcases hg with rfl | rfl | rfl | rfl | rfl | rfl <;> rcases hf with rfl | rfl | rfl | rfl <;>
    simp_all [fieldOf, dateOf, Field.base]

/-- `Recompose` to a date that some day count has lands on that day count (R250). -/
theorem recompose_of_date (z y m d sod : Int) (hy : (civilFromDays z).year = y)
    (hm : (civilFromDays z).month = m) (hd : (civilFromDays z).day = d) :
    recompose y m d sod = z * 86400 + sod := by
  have hr := civilFromDays_ranges z
  have h1 : (m - 1) / 12 = 0 := by omega
  have h2 : (m - 1) % 12 + 1 = m := by omega
  have h3 := daysFromCivil_day y m d 1
  have h4 := daysFromCivil_civilFromDays z
  rw [hy, hm, hd] at h4
  simp only [recompose, h1, h2, add_zero]
  omega

/-- Setting a field of the date to a date that exists moves the time to that date and keeps the second
of the day (R249, R250). -/
theorem referenceSetField_date (f : Field) (n : Nat) (b : Bool) (t t₀ : Int)
    (hf : f ∈ [Field.dayOfMonth, .month, .year]) (hn : f.inRange n = true)
    (hc : referenceYear t₀ / 100 = referenceYear t / 100)
    (h : ∀ g ∈ [Field.dayOfMonth, .month, .year],
      fieldOf g t₀ = if g = f then (n : Int) else fieldOf g t) :
    referenceSetField f (f.encode n b) b t = daysOf t₀ * 86400 + secondOfDay t := by
  have e := decodeNumber_encodeNumber n b (inRange_lt f n hn)
  have hd := h .dayOfMonth (by simp)
  have hm := h .month (by simp)
  have hy := h .year (by simp)
  have ht := time_of_date t
  have ht₀ := daysFromCivil_civilFromDays (daysOf t₀)
  simp only [fieldOf, referenceYear] at hd hm hy hc
  simp only [List.mem_cons, List.not_mem_nil, or_false] at hf
  rcases hf with rfl | rfl | rfl <;>
    simp only [reduceCtorEq, if_true, if_false] at hd hm hy <;>
    simp only [referenceSetField, Field.encode, e, fieldOf]
  · have hyear : (dateOf t₀).year = (dateOf t).year := by omega
    have := daysFromCivil_day (dateOf t).year (dateOf t).month n (dateOf t).day
    simp only [dateOf] at *
    rw [hyear, hm, hd] at ht₀
    omega
  · exact recompose_of_date _ _ _ _ _ (show (dateOf t₀).year = _ by omega) hm hd
  · exact recompose_of_date _ _ _ _ _ (show (dateOf t₀).year = _ by omega) hm hd

/-- The fields of a day count and a second of the day. -/
theorem fields_of_parts (z sod : Int) (h0 : 0 ≤ sod) (h1 : sod < 86400) :
    daysOf (z * 86400 + sod) = z ∧ secondOfDay (z * 86400 + sod) = sod := by
  simp only [daysOf, secondOfDay]; omega

/-- Setting a field of the date to a date that exists (R242(b)). -/
theorem referenceSetField_date_fields (f : Field) (n : Nat) (b : Bool) (t t₀ : Int)
    (hf : f ∈ [Field.dayOfMonth, .month, .year]) (hn : f.inRange n = true)
    (hc : referenceYear t₀ / 100 = referenceYear t / 100)
    (h : ∀ g ∈ [Field.dayOfMonth, .month, .year],
      fieldOf g t₀ = if g = f then (n : Int) else fieldOf g t) :
    (∀ g ∈ Field.dateAndTime, fieldOf g (referenceSetField f (f.encode n b) b t) =
      if g = f then (n : Int) else fieldOf g t) ∧
    referenceYear (referenceSetField f (f.encode n b) b t) / 100 = referenceYear t / 100 := by
  have hs : 0 ≤ secondOfDay t ∧ secondOfDay t < 86400 := by simp only [secondOfDay]; omega
  obtain ⟨p1, p2⟩ := fields_of_parts (daysOf t₀) (secondOfDay t) hs.1 hs.2
  rw [referenceSetField_date f n b t t₀ hf hn hc h]
  have hdate : dateOf (daysOf t₀ * 86400 + secondOfDay t) = dateOf t₀ := by rw [dateOf, p1, dateOf]
  refine ⟨fun g hg => ?_, by rw [referenceYear, hdate]; exact hc⟩
  simp only [Field.dateAndTime, List.mem_cons, List.not_mem_nil, or_false] at hg
  have hd := h .dayOfMonth (by simp)
  have hm := h .month (by simp)
  have hy := h .year (by simp)
  simp only [List.mem_cons, List.not_mem_nil, or_false] at hf
  rcases hg with rfl | rfl | rfl | rfl | rfl | rfl <;> rcases hf with rfl | rfl | rfl <;>
    simp_all [fieldOf]

/-- Writing a field's current value changes nothing (R242(c)). -/
theorem referenceSetField_current (f : Field) (b : Bool) (t : Int) :
    referenceSetField f (f.encode (fieldOf f t).toNat b) b t = t := by
  obtain ⟨h0, hr⟩ := fieldOf_inRange f t
  have hn := inRange_lt _ _ hr
  have e := decodeNumber_encodeNumber _ b hn
  have hz : (((fieldOf f t).toNat : Nat) : Int) = fieldOf f t := Int.toNat_of_nonneg h0
  have hdate : ∀ y : Int, y = (dateOf t).year →
      recompose y (dateOf t).month (dateOf t).day (secondOfDay t) = t := by
    rintro _ rfl
    rw [recompose_of_date (daysOf t) (dateOf t).year (dateOf t).month (dateOf t).day _ rfl rfl rfl]
    simp only [daysOf, secondOfDay]; omega
  cases f
  case hourAmPm =>
    simp only [Field.inRange, decide_eq_true_eq] at hr
    simp only [referenceSetField, decode_encodeHourAmPm _ b hr, hz]
    simp only [fieldOf]; omega
  case month =>
    simp only [referenceSetField, Field.encode, e, hz]
    exact hdate _ rfl
  case year =>
    simp only [referenceSetField, Field.encode, e, hz]
    exact hdate _ (by simp only [fieldOf]; omega)
  case weekday =>
    have : (BitVec.ofNat 8 (fieldOf .weekday t).toNat).toNat = (fieldOf .weekday t).toNat := by
      rw [BitVec.toNat_ofNat]; omega
    simp only [referenceSetField, Field.encode, this, hz]; omega
  all_goals
    simp only [referenceSetField, Field.encode, e, hz]; omega

/-- Setting the weekday moves the date within its week (R251). -/
theorem referenceSetField_weekday (n : Nat) (b : Bool) (t : Int) (hn : n < 7) :
    fieldOf .weekday (referenceSetField .weekday (Field.weekday.encode n b) b t) = n ∧
    secondOfDay (referenceSetField .weekday (Field.weekday.encode n b) b t) = secondOfDay t ∧
    -(7 * 86400) < referenceSetField .weekday (Field.weekday.encode n b) b t - t ∧
    referenceSetField .weekday (Field.weekday.encode n b) b t - t < 7 * 86400 := by
  have e : (BitVec.ofNat 8 n).toNat = n := by rw [BitVec.toNat_ofNat]; omega
  simp only [referenceSetField, Field.encode, e, fieldOf, daysOf, secondOfDay]
  omega

/-- The year number of `TB_ref` advances by steps of one. -/
theorem referenceYear_step (t : Int) :
    referenceYear t ≤ referenceYear (t + 1) ∧ referenceYear (t + 1) ≤ referenceYear t + 1 := by
  have hd : daysOf (t + 1) = daysOf t ∨ daysOf (t + 1) = daysOf t + 1 := by
    simp only [daysOf]; omega
  simp only [referenceYear, dateOf]
  rcases hd with hd | hd <;> rw [hd]
  · omega
  · exact civil_year_step _

/-- A count of the seconds that advances by steps of one falls nowhere. -/
theorem count_mono (y : Int → Int) (step : ∀ t, y t ≤ y (t + 1) ∧ y (t + 1) ≤ y t + 1) (t : Int) (k : Nat) :
    y t ≤ y (t + k) := by
  induction k with
  | zero => simp
  | succ k ih =>
    have := (step (t + k)).1
    push_cast
    rw [← add_assoc]
    omega

/-- A count that advances by steps of one keeps its hundreds over a span of time if and only if it keeps
them at every second. -/
theorem century_span (y : Int → Int) (step : ∀ t, y t ≤ y (t + 1) ∧ y (t + 1) ≤ y t + 1) (t : Int)
    (k : Nat) : (∀ u, t ≤ u → u < t + k → y (u + 1) / 100 = y u / 100) ↔ y (t + k) / 100 = y t / 100 := by
  constructor
  · induction k with
    | zero => simp
    | succ k ih =>
      intro h
      have := ih fun u h0 h1 => h u h0 (by omega)
      have := h (t + k) (by omega) (by omega)
      push_cast
      rw [← add_assoc]
      omega
  · intro h u h0 h1
    have a := count_mono y step t (u - t).toNat
    have b := count_mono y step (u + 1) (t + k - (u + 1)).toNat
    have c := (step u).1
    rw [show t + ((u - t).toNat : Int) = u by omega] at a
    rw [show u + 1 + ((t + k - (u + 1)).toNat : Int) = t + k by omega] at b
    omega

/-- In a calendar whose year number, of which `get_year` is the value modulo 100, advances by steps of one,
two times lie in one century of the contract if and only if their year numbers do (R240). -/
theorem TimeBackend.sameCentury_iff (tb : TimeBackend) (y : Int → Int)
    (hmod : ∀ t, (tb.number .year t : Int) = y t % 100)
    (step : ∀ t, y t ≤ y (t + 1) ∧ y (t + 1) ≤ y t + 1) (t t' : Int) :
    tb.SameCentury t t' ↔ y t' / 100 = y t / 100 := by
  have hs : ∀ u, (tb.number .year (u + 1) = tb.number .year u ∨
      tb.number .year (u + 1) = tb.number .year u + 1) ↔ y (u + 1) / 100 = y u / 100 := by
    intro u
    have h1 := hmod u
    have h2 := hmod (u + 1)
    have h3 := step u
    omega
  have h := century_span y step (min t t') (max t t' - min t t').toNat
  rw [show min t t' + ((max t t' - min t t').toNat : Int) = max t t' by omega] at h
  simp only [TimeBackend.SameCentury, hs, h]
  rcases le_total t t' with hle | hle
  · rw [min_eq_left hle, max_eq_right hle]
  · rw [min_eq_right hle, max_eq_left hle]; exact eq_comm

/-- Two times of `TB_ref` lie in one century of the contract if and only if their year numbers do. -/
theorem referenceBackend_sameCentury (t t' : Int) :
    referenceBackend.SameCentury t t' ↔ referenceYear t' / 100 = referenceYear t / 100 := by
  refine referenceBackend.sameCentury_iff referenceYear (fun t => ?_) referenceYear_step t t'
  rw [referenceBackend_number, Int.toNat_of_nonneg (fieldOf_inRange .year t).1]
  rfl

/-- A date that exists for the contract is the date of some time of `TB_ref`, in the same century. -/
theorem reference_dateExists (f : Field) (n : Nat) (t : Int) (h : referenceBackend.DateExists f n t) :
    ∃ t₀, referenceYear t₀ / 100 = referenceYear t / 100 ∧ ∀ g ∈ [Field.dayOfMonth, .month, .year],
      fieldOf g t₀ = if g = f then (n : Int) else fieldOf g t := by
  obtain ⟨t₀, hc, hr⟩ := h
  refine ⟨t₀, (referenceBackend_sameCentury t t₀).1 hc, fun g hg => ?_⟩
  have := hr g hg
  rw [TimeBackend.numberWith, referenceBackend_number, referenceBackend_number] at this
  have h1 := (fieldOf_inRange g t₀).1
  have h2 := (fieldOf_inRange g t).1
  split at this <;> simp_all <;> omega

/-- `TB_ref` meets the contract (R252). -/
theorem referenceBackend_conforms : referenceBackend.Conforms where
  get_encodes f t b := by rw [referenceBackend_number]; rfl
  number_inRange f t := by rw [referenceBackend_number]; exact (fieldOf_inRange f t).2
  set_current f b t := referenceSetField_current f b t
  set_timeOfDay f n b t hf hn :=
    number_of_fields _ _ _ _ (referenceSetField_timeOfDay f n b t hf hn).2
  set_date f n b t hf hn h := by
    obtain ⟨t₀, hc, h₀⟩ := reference_dateExists f n t h
    exact number_of_fields _ _ _ _
      (referenceSetField_date_fields f n b t t₀ hf hn hc h₀).1
  set_year_century n b t hn h := by
    obtain ⟨t₀, hc, h₀⟩ := reference_dateExists .year n t h
    exact (referenceBackend_sameCentury _ _).2
      (referenceSetField_date_fields .year n b t t₀ (by decide) hn hc h₀).2
  set_weekday n b t hn _ := by
    obtain ⟨h1, h2, h3, h4⟩ := referenceSetField_weekday n b t (by simpa [Field.inRange] using hn)
    refine ⟨?_, fun g hg => ?_, h3, h4⟩
    · rw [referenceBackend_number, referenceBackend_setLatched, h1]; simp
    · rw [referenceBackend_number, referenceBackend_number, referenceBackend_setLatched]
      fin_cases hg <;> simp only [fieldOf, h2]

/-- A time backend together with the contract it meets. -/
structure ConformingBackend where
  backend : TimeBackend := referenceBackend
  conforms : backend.Conforms := by exact referenceBackend_conforms
  deriving Inhabited

end Sys2Proof.Machine
end

