-- ==== Sys2Proof/Config.lean ====
section
/-! DEFINITION. The parameters of the hardware that an implementation fixes (R7) and the free values. -/

namespace Sys2Proof

/-- `REG_SIZE`: the number of register slots (R7). -/
def Config.regSize : Nat := 16

/-- The default of `RAM_SIZE` (R7). -/
def Config.defaultRamSize : Nat := 240

/-- The largest `RAM_SIZE` (R7). -/
def Config.maxRamSize : Nat := 240

/-- `SLA_W`: the address byte that selects a write transfer (R7, R87). -/
def Config.slaW : Byte := 0xA0#8

/-- `SLA_R`: the address byte that selects a read transfer (R7, R87). -/
def Config.slaR : Byte := 0xA1#8

/-- The time backend of an implementation, of which only the contract is known (R235, R244). Its
answers outside the contract are the free values of this model (log entry 4). -/
opaque Config.externalBackend : Machine.ConformingBackend

end Sys2Proof
end

