-- ==== Sys2Proof/Machine/State.lean ====
section
/-! DEFINITION. The state of one chip instance and its surroundings as plain data, the reasons a step can
stop, and the state after reset (`10_state.md`). -/

namespace Sys2Proof.Machine

/-- A byte array as the list of its cells that differ from `Memory.unlisted`, addresses rising. -/
abbrev Memory := List Host.Cell

/-- The sixteen bytes of the register block or of the snapshot (R22, R24). -/
abbrev RegisterBlock := Vector Byte 16

/-- The register block of all zero bytes (R44). -/
def RegisterBlock.zero : RegisterBlock := #v[0, 0, 0, 0, 0, 0, 0, 0, 0, 0, 0, 0, 0, 0, 0, 0]

/-- `protocol_state` (R30). -/
inductive ProtocolState where
  | idle | startWait | getAddress | addressWriteAck | addressReadAck | getRegNr | regNrAck
  | readRegs | readAck | writeRegs | writeAck
  deriving DecidableEq, Repr

/-- The Context, with exactly the elements of R20. -/
structure Context where
  /-- `ram`, by index 0..`RAM_SIZE`-1 (R21). -/
  ram : Memory
  /-- `registers` (R22, R23). -/
  registers : RegisterBlock
  /-- `read_snapshot` (R24). -/
  readSnapshot : RegisterBlock
  /-- `offset` (R25). -/
  offset : Int
  /-- `halt_latch` (R26). -/
  haltLatch : Int
  /-- `halted` (R27). -/
  halted : Bool
  /-- `am_pm`, the 12-hour mode flag (R28). -/
  amPm : Bool
  /-- `clock_line` (R29). -/
  clockLine : Level
  /-- `data_line` (R29). -/
  dataLine : Level
  /-- `protocol_state` (R30). -/
  protocolState : ProtocolState
  /-- `bit_count`, 0..8 (R31). -/
  bitCount : Nat
  /-- `shift_register` (R32). -/
  shiftRegister : Byte
  /-- `register_pointer` (R33, R41). -/
  registerPointer : Byte
  /-- `baseline_ram` (R34). -/
  baselineRam : Memory
  /-- `baseline_registers` (R34). -/
  baselineRegisters : RegisterBlock
  /-- `baseline_offset` (R34). -/
  baselineOffset : Int
  deriving DecidableEq, Repr

/-- Which time backend the instance has (R7, R235; log entry 2). -/
inductive Backend where
  /-- `TB_ref` (R245 to R252). -/
  | reference
  /-- An unknown backend that meets the contract. -/
  | external
  deriving DecidableEq, Repr

/-- The parameters of an instance, fixed while it lives (R7, R11; log entry 1). -/
structure Params where
  /-- `RAM_SIZE`. -/
  ramSize : Nat
  /-- `device_name`, an opaque key. -/
  deviceName : String
  /-- `TB`. -/
  backend : Backend
  deriving DecidableEq, Repr

/-- The host clock's answers during one operation (R221, R222). -/
structure HostClock where
  /-- `host_now`, seconds. -/
  now : Int
  /-- `host_cs`, 0..99. -/
  cs : Fin 100
  deriving DecidableEq, Repr

/-- What persists: the blocks `PS.load` answers and `PS.save` receives (R262). -/
structure Image where
  ram : List Byte
  registers : List Byte
  offset : Int
  deriving DecidableEq, Repr

/-- What the persistence backend holds, by device name; the entry of a name is its first (R262; log
entry 15). -/
abbrev Store := List (String × Image)

/-- The arguments of a call of `PS.load` (R260, R262). -/
structure LoadCall where
  deviceName : String
  ramSize : Nat
  registerSize : Nat
  deriving DecidableEq, Repr

/-- The arguments of a call of `PS.save` (R262, R264). -/
structure SaveCall where
  image : Image
  ramSize : Nat
  registerSize : Nat
  deviceName : String
  deriving DecidableEq, Repr

/-- An operation called from outside (R4, R45; log entries 5 and 8). -/
inductive Input where
  /-- A bus operation by its event code (R104), with the host clock's answers while it runs (R222). -/
  | bus (code : Byte) (host : HostClock)
  /-- `Create` with the instance's parameters (R260). -/
  | create (params : Params)
  /-- `Destroy(save_requested)` (R264). -/
  | destroy (saveRequested : Bool)
  /-- A bus operation that another operation overlaps: the other one's event code, `none` for a lifecycle
  operation (R5, R322). -/
  | overlapping (code : Byte) (other : Option Byte)
  /-- No operation of the chip: the persistence backend comes to hold an image under a name, or none,
  from elsewhere (R262; log entry 15). -/
  | persist (deviceName : String) (image : Option Image)
  deriving DecidableEq, Repr

/-- The state: the Context, the instance's parameters, and the model's own record of the outside. -/
structure State where
  /-- The Context (R20). -/
  ctx : Context
  /-- The parameters of the instance (R7). -/
  params : Params
  /-- An instance exists: created and not yet destroyed (R45). -/
  live : Bool
  /-- The host clock's answers during the current operation (R222). -/
  host : HostClock
  /-- The level the last `read_data()` returned (R133). -/
  result : Option Level
  /-- What the persistence backend of the instance holds (R7, R262). -/
  stored : Store
  /-- The call of `PS.load` the last `Create` made (R260). -/
  loadCall : Option LoadCall
  /-- The call of `PS.save` the last `Destroy` made, if it made one (R264). -/
  saveCall : Option SaveCall
  /-- The operations still to be called, in order. -/
  inputs : List Input
  deriving DecidableEq, Repr

/-- Why the machine stops with a fault. The hardware has none (R280). -/
inductive Fault where
  /-- A bank access at or above `ADDR_SPACE`, an address the spec says does not occur (R35). Raised by the
  RAM rows of the bank read and write. Safe: no state that meets the invariant raises it. -/
  | addressOutsideSpace (address : Byte)
  deriving DecidableEq, Repr

/-- Why the model gives a call no meaning. -/
inductive Refusal where
  /-- An instruction without a meaning; raised by no arm. Safe. -/
  | notModelled (mnemonic : String)
  /-- A code 0x05..0xFF, which is not an event (R104). Raised by the fetch. Safe. -/
  | notAnEvent (code : Byte)
  /-- An operation before `Create` or after `Destroy` (R45, R266). Raised by the fetch and `Destroy`. Safe. -/
  | noInstance
  /-- A second `Create` of a live instance (R260). Raised by `Create`. Safe. -/
  | alreadyCreated
  /-- A `RAM_SIZE` outside 1..240 (R7). Raised by `Create`. Safe. -/
  | ramSizeOutOfRange (ramSize : Nat)
  /-- A found image with a block of the wrong size (R261). Raised by `Create`. Safe. -/
  | imageSizeMismatch (ramLength registersLength : Nat)
  /-- Overlapping operations (R5). Raised by the fetch. Safe. -/
  | overlappingOperations
  deriving DecidableEq, Repr

/-- The outcome of a step of this machine. -/
abbrev Result := Host.Outcome State Fault Refusal

/-- The Context after creation from a RAM block, a register block and an offset (R44, R260). -/
def Context.initial (ram : Memory) (registers : RegisterBlock) (offset : Int) : Context where
  ram := ram
  registers := registers
  readSnapshot := RegisterBlock.zero
  offset := offset
  haltLatch := 0
  halted := false
  amPm := false
  clockLine := true
  dataLine := true
  protocolState := .idle
  bitCount := 0
  shiftRegister := 0
  registerPointer := 0
  baselineRam := ram
  baselineRegisters := registers
  baselineOffset := offset

/-- Reset is creation (R43, R300), here without a stored image at the default `RAM_SIZE` (R44). The
fields beside `ctx` are the model's own (log entries 1, 2, 5 to 8, 15). -/
def State.reset : State where
  ctx := Context.initial [] RegisterBlock.zero 0
  params := { ramSize := Config.defaultRamSize, deviceName := "", backend := .reference }
  live := true
  host := { now := 0, cs := 0 }
  result := none
  stored := []
  loadCall := some { deviceName := "", ramSize := Config.defaultRamSize, registerSize := Config.regSize }
  saveCall := none
  inputs := []

end Sys2Proof.Machine
end

