-- ==== Sys2Proof/Machine/Ops.lean ====
section
/-! DEFINITION. Named operations over the state: byte arrays, one update per field, the pointer, the shift
logic and the abort. The hardware takes no exception and returns from none (R280, R284, R285); the abort
paths of R281 stand in their place. -/

namespace Sys2Proof.Machine

/-! ### Byte arrays -/

/-- What a cell that the list does not name reads as: RAM is zero where nothing was loaded (R44). -/
def Memory.unlisted : Byte := 0#8

/-- The byte at an address. -/
def Memory.read : Memory → Nat → Byte
  | [], _ => Memory.unlisted
  | (a, b) :: m, k => if a = k then b else Memory.read m k

/-- The array with one byte replaced, in canonical form. -/
def Memory.write : Memory → Nat → Byte → Memory
  | [], k, v => if v = Memory.unlisted then [] else [(k, v)]
  | (a, b) :: m, k, v =>
    if k < a then (if v = Memory.unlisted then (a, b) :: m else (k, v) :: (a, b) :: m)
    else if k = a then (if v = Memory.unlisted then m else (k, v) :: m)
    else (a, b) :: Memory.write m k v

/-- The canonical form: addresses strictly rising, no cell equal to what an unlisted one reads as. -/
def Memory.wf : Memory → Bool
  | [] => true
  | (a, b) :: m => b != Memory.unlisted && m.all (fun c => decide (a < c.1)) && Memory.wf m

/-- Every listed address is below `n`. -/
def Memory.below (n : Nat) (m : Memory) : Bool := m.all (fun c => decide (c.1 < n))

/-- The array of a block of bytes whose first byte has the address `k`. -/
def Memory.ofBlock : List Byte → Nat → Memory
  | [], _ => []
  | b :: bs, k =>
    if b = Memory.unlisted then Memory.ofBlock bs (k + 1) else (k, b) :: Memory.ofBlock bs (k + 1)

/-- The bytes at the addresses `k` to `k + n - 1`. -/
def Memory.toBlock (m : Memory) : Nat → Nat → List Byte
  | _, 0 => []
  | k, n + 1 => Memory.read m k :: Memory.toBlock m (k + 1) n

/-- The register block of a block of sixteen bytes. -/
def RegisterBlock.ofBlock (bytes : List Byte) (h : bytes.length = 16) : RegisterBlock :=
  ⟨bytes.toArray, by simp [h]⟩

/-! ### One update per field -/

/-- The state with `clock_line` set. -/
def State.setClockLine (s : State) (x : Level) : State :=
  { s with ctx := { s.ctx with clockLine := x } }

/-- The state with `data_line` set. -/
def State.setDataLine (s : State) (x : Level) : State :=
  { s with ctx := { s.ctx with dataLine := x } }

/-- The state with `protocol_state` set: the hardware's only control transfer (R9). -/
def State.setProtocol (s : State) (x : ProtocolState) : State :=
  { s with ctx := { s.ctx with protocolState := x } }

/-- The state with `bit_count` set. -/
def State.setBitCount (s : State) (x : Nat) : State :=
  { s with ctx := { s.ctx with bitCount := x } }

/-- The state with `shift_register` set. -/
def State.setShiftRegister (s : State) (x : Byte) : State :=
  { s with ctx := { s.ctx with shiftRegister := x } }

/-- The state with `register_pointer` set. -/
def State.setPointer (s : State) (x : Byte) : State :=
  { s with ctx := { s.ctx with registerPointer := x } }

/-- The state with `read_snapshot` set. -/
def State.setSnapshot (s : State) (x : RegisterBlock) : State :=
  { s with ctx := { s.ctx with readSnapshot := x } }

/-- The state with one slot of `registers` set. -/
def State.setRegister (s : State) (i : Fin 16) (x : Byte) : State :=
  { s with ctx := { s.ctx with registers := s.ctx.registers.set i x } }

/-- The state with one byte of `ram` set. -/
def State.setRam (s : State) (i : Nat) (x : Byte) : State :=
  { s with ctx := { s.ctx with ram := Memory.write s.ctx.ram i x } }

/-- The state with `offset` set. -/
def State.setOffset (s : State) (x : Int) : State :=
  { s with ctx := { s.ctx with offset := x } }

/-- The state with `halt_latch` set. -/
def State.setHaltLatch (s : State) (x : Int) : State :=
  { s with ctx := { s.ctx with haltLatch := x } }

/-- The state with `halted` set. -/
def State.setHalted (s : State) (x : Bool) : State :=
  { s with ctx := { s.ctx with halted := x } }

/-- The state with `am_pm` set. -/
def State.setAmPm (s : State) (x : Bool) : State :=
  { s with ctx := { s.ctx with amPm := x } }

/-- The state with the level `read_data()` returned. -/
def State.setResult (s : State) (x : Level) : State :=
  { s with result := some x }

/-! ### Parameters -/

/-- `ADDR_SPACE` = `REG_SIZE` + `RAM_SIZE` (R7, R60). -/
def State.addrSpace (s : State) : Nat := Config.regSize + s.params.ramSize

/-- The time backend of the instance, with its contract (R235; log entry 2). -/
def Backend.conforming : Backend → ConformingBackend
  | .reference => { backend := referenceBackend, conforms := referenceBackend_conforms }
  | .external => Config.externalBackend

/-- The time backend of the instance (R235). -/
def State.timeBackend (s : State) : TimeBackend := s.params.backend.conforming.backend

/-! ### The pointer -/

/-- Pointer commit: the pointer byte reduced modulo `ADDR_SPACE` (R65). -/
def State.commitPointer (s : State) : State :=
  s.setPointer (BitVec.ofNat 8 (s.ctx.shiftRegister.toNat % s.addrSpace))

/-- Pointer increment with wrap (R66). -/
def State.incrementPointer (s : State) : State :=
  s.setPointer (BitVec.ofNat 8 ((s.ctx.registerPointer.toNat + 1) % s.addrSpace))

/-! ### The shift logic -/

/-- `ResetShift()` (R113). -/
def State.resetShift (s : State) : State :=
  (s.setBitCount 0).setShiftRegister 0#8

/-- The effect of `ShiftIn()` on the state (R114). -/
def State.shiftIn (s : State) : State :=
  (s.setShiftRegister ((s.ctx.shiftRegister <<< 1) ||| (if s.ctx.dataLine then 1#8 else 0#8))).setBitCount
    (s.ctx.bitCount + 1)

/-- What `ShiftIn()` answers, on the state it left: eight bits are in (R114). -/
def State.byteDone (s : State) : Bool := s.ctx.bitCount == 8

/-! ### Control -/

/-- Abort of a transfer: back to `IDLE`, nothing else changes (R281). -/
def State.abort (s : State) : State := s.setProtocol .idle

/-- One operation after another inside a step; a stop of the first is the stop of both. -/
def andThen (r : Result) (f : State → Result) : Result :=
  match r with
  | .next s => f s
  | .fault e => .fault e
  | .refused e => .refused e

end Sys2Proof.Machine
end

