-- ==== Sys2Proof/Machine/AddressByte.lean ====
section
/-! DEFINITION. Family ADDR: what the completed address byte does (R116). -/

namespace Sys2Proof.Machine

/-- SLA_W: write-select (R116). -/
def execSlaW (s : State) : Result := .next (s.setProtocol .addressWriteAck)

/-- SLA_R: read-select (R116). -/
def execSlaR (s : State) : Result := .next (s.setProtocol .addressReadAck)

/-- ADDR_OTHER: unrecognised, the transfer is aborted; the byte itself has no effect (R116, R281). -/
def execAddrOther (_busAddress : BitVec 7) (_direction : BitVec 1) (s : State) : Result :=
  .next s.abort

/-- The address byte in `shift_register` is compared, all eight bits (R87, R116). -/
def selectAddress (s : State) : Result :=
  let b := s.ctx.shiftRegister
  if b = Config.slaW then execSlaW s
  else if b = Config.slaR then execSlaR s
  else execAddrOther (b.extractLsb' 1 7) (b.extractLsb' 0 1) s

end Sys2Proof.Machine
end

