-- ==== Sys2Proof/Machine/Flags.lean ====
section
/-! DEFINITION. The two flags of the hardware, `halted` and `am_pm` (R40), how a written byte asks for
them, and the level the chip drives. The hardware has no condition codes. -/

namespace Sys2Proof.Machine

/-- Bit 7 of a written control byte: the halt flag request (R39, R91). -/
def haltRequest (v : Byte) : Bool := v.getLsbD 7

/-- Bit 7 of a written hour byte: the 12-hour mode, the new `am_pm` (R95, R195). -/
def hourMode (v : Byte) : Bool := v.getLsbD 7

/-- The states in which the chip drives an acknowledge (R133). -/
def ProtocolState.isAck : ProtocolState → Bool
  | .addressWriteAck | .addressReadAck | .regNrAck | .writeAck | .readAck => true
  | .idle | .startWait | .getAddress | .getRegNr | .writeRegs | .readRegs => false

/-- The level the chip drives, what `read_data()` returns (R133): the current output bit in `READ_REGS`,
0 in every acknowledge state, 1 otherwise. -/
def Context.drivenLevel (c : Context) : Level :=
  if c.protocolState = .readRegs then c.shiftRegister.getLsbD (7 - c.bitCount)
  else !c.protocolState.isAck

end Sys2Proof.Machine
end

