-- ==== Sys2Proof/Machine/TimeModel.lean ====
section
/-! DEFINITION. The time offset model: the virtual time, the halt and resume transitions and the routing
of field writes (`43_time_model.md`, R199). -/

namespace Sys2Proof.Machine

/-- `now(offset)` at the current operation (R223). -/
def State.runningTime (s : State) : Int := getLatch s.host.now s.ctx.offset

/-- `VirtualNow()` (R226). -/
def State.virtualNow (s : State) : Int :=
  if s.ctx.halted then s.ctx.haltLatch else s.runningTime

/-- `Halt()` (R228). -/
def State.halt (s : State) : State :=
  (s.setHaltLatch (s.host.now + s.ctx.offset)).setHalted true

/-- `Resume()`, with the formula as the source gives it (R229). -/
def State.resume (s : State) : State :=
  (s.setOffset (s.ctx.offset - (s.host.now - (s.ctx.haltLatch - s.ctx.offset)))).setHalted false

/-- `ApplyField(f, value, bcd)`: into the latch while halted, into the offset while running (R199). -/
def State.applyField (s : State) (f : Field) (value : Byte) (inBcd : Bool) : State :=
  if s.ctx.halted then
    s.setHaltLatch (s.timeBackend.setLatched f value inBcd s.ctx.haltLatch)
  else
    s.setOffset (s.timeBackend.setOffset f value inBcd s.host.now s.ctx.offset)

end Sys2Proof.Machine
end

