-- ==== Sys2Proof/Machine/Snapshot.lean ====
section
/-! DEFINITION. Snapshot construction at START, one definition per computed register (R160 to R176). -/

namespace Sys2Proof.Machine

/-- Byte 1, centiseconds: live, halted or not (R162). -/
def State.snapshotCentiseconds (s : State) : Byte := getCentisecond s.host.cs true

/-- Byte 2, seconds of the time `t` (R163). -/
def State.snapshotSeconds (s : State) (t : Int) : Byte := s.timeBackend.get .second t true

/-- Byte 3, minutes (R164). -/
def State.snapshotMinutes (s : State) (t : Int) : Byte := s.timeBackend.get .minute t true

/-- Byte 4, hours in the form `am_pm` selects (R165). -/
def State.snapshotHours (s : State) (t : Int) : Byte :=
  if s.ctx.amPm then hourRegister12 (s.timeBackend.get .hourAmPm t true)
  else s.timeBackend.get .hour t true

/-- Byte 5, year and day of month (R166). -/
def State.snapshotYearDate (s : State) (t : Int) : Byte :=
  packYearDate (s.timeBackend.get .dayOfMonth t true) (s.timeBackend.get .year t false)

/-- Byte 6, weekday and month (R167). -/
def State.snapshotWeekdayMonth (s : State) (t : Int) : Byte :=
  packWeekdayMonth (s.timeBackend.get .month t true) (s.timeBackend.get .weekday t false)

/-- The sixteen bytes of `BuildSnapshot()`: every time field from one time value (R160); byte 7 is 0x00
(R168); bytes 0 and 8 to 15 are copied from `registers` (R161, R169 to R176). -/
def State.snapshot (s : State) : RegisterBlock :=
  let t := s.virtualNow
  #v[s.ctx.registers[0], s.snapshotCentiseconds, s.snapshotSeconds t, s.snapshotMinutes t,
    s.snapshotHours t, s.snapshotYearDate t, s.snapshotWeekdayMonth t, 0x00#8,
    s.ctx.registers[8], s.ctx.registers[9], s.ctx.registers[10], s.ctx.registers[11],
    s.ctx.registers[12], s.ctx.registers[13], s.ctx.registers[14], s.ctx.registers[15]]

/-- `BuildSnapshot()` (R160). -/
def State.buildSnapshot (s : State) : State := s.setSnapshot s.snapshot

end Sys2Proof.Machine
end

