-- ==== Sys2Proof/Machine/BankRead.lean ====
section
/-! DEFINITION. Family RADDR: the bank read, one meaning per register and per RAM range. The byte read
goes to `shift_register`, from where it is sent (R122, R124, R178). -/

namespace Sys2Proof.Machine

/-- A read of a register address: the snapshot byte, never recomputed (R178, R179). -/
def loadSnapshot (i : Fin 16) (s : State) : Result :=
  .next (s.setShiftRegister s.ctx.readSnapshot[i])

/-- R_CONTROL: `read_snapshot[0]`, built by R161 (R178). -/
def execRControl (s : State) : Result := loadSnapshot 0 s

/-- R_CENTISECONDS: `read_snapshot[1]`, built by R162 (R178). -/
def execRCentiseconds (s : State) : Result := loadSnapshot 1 s

/-- R_SECONDS: `read_snapshot[2]`, built by R163 (R178). -/
def execRSeconds (s : State) : Result := loadSnapshot 2 s

/-- R_MINUTES: `read_snapshot[3]`, built by R164 (R178). -/
def execRMinutes (s : State) : Result := loadSnapshot 3 s

/-- R_HOURS: `read_snapshot[4]`, built by R165 (R178). -/
def execRHours (s : State) : Result := loadSnapshot 4 s

/-- R_YEAR_DATE: `read_snapshot[5]`, built by R166 (R178). -/
def execRYearDate (s : State) : Result := loadSnapshot 5 s

/-- R_WEEKDAY_MONTH: `read_snapshot[6]`, built by R167 (R178). -/
def execRWeekdayMonth (s : State) : Result := loadSnapshot 6 s

/-- R_TIMER_DAYS: `read_snapshot[7]`, built by R168 (R178). -/
def execRTimerDays (s : State) : Result := loadSnapshot 7 s

/-- R_ALARM_CONTROL: `read_snapshot[8]`, built by R169 (R178). -/
def execRAlarmControl (s : State) : Result := loadSnapshot 8 s

/-- R_ALARM_CENTISECONDS: `read_snapshot[9]`, built by R170 (R178). -/
def execRAlarmCentiseconds (s : State) : Result := loadSnapshot 9 s

/-- R_ALARM_SECONDS: `read_snapshot[10]`, built by R171 (R178). -/
def execRAlarmSeconds (s : State) : Result := loadSnapshot 10 s

/-- R_ALARM_MINUTES: `read_snapshot[11]`, built by R172 (R178). -/
def execRAlarmMinutes (s : State) : Result := loadSnapshot 11 s

/-- R_ALARM_HOURS: `read_snapshot[12]`, built by R173 (R178). -/
def execRAlarmHours (s : State) : Result := loadSnapshot 12 s

/-- R_ALARM_DATE: `read_snapshot[13]`, built by R174 (R178). -/
def execRAlarmDate (s : State) : Result := loadSnapshot 13 s

/-- R_ALARM_MONTH: `read_snapshot[14]`, built by R175 (R178). -/
def execRAlarmMonth (s : State) : Result := loadSnapshot 14 s

/-- R_ALARM_TIMER: `read_snapshot[15]`, built by R176 (R178). -/
def execRAlarmTimer (s : State) : Result := loadSnapshot 15 s

/-- A read of a RAM address: `ram[addr - 16]`, live (R178); an address at or above `ADDR_SPACE` does not
exist (R35; log entry 12). -/
def loadRam (address : Byte) (s : State) : Result :=
  if address.toNat < s.addrSpace then
    .next (s.setShiftRegister (Memory.read s.ctx.ram (address.toNat - Config.regSize)))
  else .fault (.addressOutsideSpace address)

/-- R_RAM_16_31 (R178). -/
def execRRam16To31 (low : BitVec 4) (s : State) : Result := loadRam (1#4 ++ low) s

/-- R_RAM_32_63 (R178). -/
def execRRam32To63 (low : BitVec 5) (s : State) : Result := loadRam (1#3 ++ low) s

/-- R_RAM_64_127 (R178). -/
def execRRam64To127 (low : BitVec 6) (s : State) : Result := loadRam (1#2 ++ low) s

/-- R_RAM_128_255 (R178). -/
def execRRam128To255 (low : BitVec 7) (s : State) : Result := loadRam (1#1 ++ low) s

/-- `BankRead(addr)`, its answer loaded into `shift_register` (R178). -/
def bankRead (a : Byte) (s : State) : Result :=
  if a = 0x00#8 then execRControl s
  else if a = 0x01#8 then execRCentiseconds s
  else if a = 0x02#8 then execRSeconds s
  else if a = 0x03#8 then execRMinutes s
  else if a = 0x04#8 then execRHours s
  else if a = 0x05#8 then execRYearDate s
  else if a = 0x06#8 then execRWeekdayMonth s
  else if a = 0x07#8 then execRTimerDays s
  else if a = 0x08#8 then execRAlarmControl s
  else if a = 0x09#8 then execRAlarmCentiseconds s
  else if a = 0x0A#8 then execRAlarmSeconds s
  else if a = 0x0B#8 then execRAlarmMinutes s
  else if a = 0x0C#8 then execRAlarmHours s
  else if a = 0x0D#8 then execRAlarmDate s
  else if a = 0x0E#8 then execRAlarmMonth s
  else if a = 0x0F#8 then execRAlarmTimer s
  else if a &&& 0xF0#8 = 0x10#8 then execRRam16To31 (a.extractLsb' 0 4) s
  else if a &&& 0xE0#8 = 0x20#8 then execRRam32To63 (a.extractLsb' 0 5) s
  else if a &&& 0xC0#8 = 0x40#8 then execRRam64To127 (a.extractLsb' 0 6) s
  else execRRam128To255 (a.extractLsb' 0 7) s

end Sys2Proof.Machine
end

