-- ==== Sys2Proof/Machine/BankWrite.lean ====
section
/-! DEFINITION. Family WADDR: the bank write, one meaning per register and per RAM range. The written
value is the byte just assembled in `shift_register` (R120, R190 to R203). -/

namespace Sys2Proof.Machine

/-- W_CONTROL: the halt or resume transition by the `halted` flag, then the byte is stored (R191). -/
def execWControl (s : State) : Result :=
  let v := s.ctx.shiftRegister
  let s₁ :=
    if haltRequest v && !s.ctx.halted then s.halt
    else if !haltRequest v && s.ctx.halted then s.resume
    else s
  .next (s₁.setRegister 0 v)

/-- W_CENTISECONDS: ignored (R192). -/
def execWCentiseconds (s : State) : Result := .next s

/-- W_SECONDS: the whole byte is the BCD value (R193). -/
def execWSeconds (s : State) : Result :=
  .next (s.applyField .second s.ctx.shiftRegister true)

/-- W_MINUTES: the whole byte is the BCD value (R194). -/
def execWMinutes (s : State) : Result :=
  .next (s.applyField .minute s.ctx.shiftRegister true)

/-- W_HOURS: `am_pm` from bit 7, then the hour in that form (R195). -/
def execWHours (s : State) : Result :=
  let v := s.ctx.shiftRegister
  let s₁ := s.setAmPm (hourMode v)
  .next (if hourMode v then s₁.applyField .hourAmPm (hourOperand12 v) true
    else s₁.applyField .hour (hourOperand24 v) true)

/-- W_YEAR_DATE: the day, then the year within the 4-year block the day left (R196). -/
def execWYearDate (s : State) : Result :=
  let v := s.ctx.shiftRegister
  let s₁ := s.applyField .dayOfMonth (dayOperand v) true
  let year := s₁.timeBackend.get .year s₁.virtualNow false
  .next (s₁.applyField .year (yearOperand v year) false)

/-- W_WEEKDAY_MONTH: the month, then the weekday (R197). -/
def execWWeekdayMonth (s : State) : Result :=
  let v := s.ctx.shiftRegister
  .next ((s.applyField .month (monthOperand v) true).applyField .weekday (weekdayOperand v) false)

/-- W_TIMER_DAYS: ignored (R198). -/
def execWTimerDays (s : State) : Result := .next s

/-- A write of an alarm slot: stored verbatim, no side effect (R202). -/
def storeAlarm (i : Fin 16) (s : State) : Result := .next (s.setRegister i s.ctx.shiftRegister)

/-- W_ALARM_CONTROL (R202). -/
def execWAlarmControl (s : State) : Result := storeAlarm 8 s

/-- W_ALARM_CENTISECONDS (R202). -/
def execWAlarmCentiseconds (s : State) : Result := storeAlarm 9 s

/-- W_ALARM_SECONDS (R202). -/
def execWAlarmSeconds (s : State) : Result := storeAlarm 10 s

/-- W_ALARM_MINUTES (R202). -/
def execWAlarmMinutes (s : State) : Result := storeAlarm 11 s

/-- W_ALARM_HOURS (R202). -/
def execWAlarmHours (s : State) : Result := storeAlarm 12 s

/-- W_ALARM_DATE (R202). -/
def execWAlarmDate (s : State) : Result := storeAlarm 13 s

/-- W_ALARM_MONTH (R202). -/
def execWAlarmMonth (s : State) : Result := storeAlarm 14 s

/-- W_ALARM_TIMER (R202). -/
def execWAlarmTimer (s : State) : Result := storeAlarm 15 s

/-- A write of a RAM address: `ram[addr - 16] <- v` (R203); an address at or above `ADDR_SPACE` does
not exist (R35; log entry 12). -/
def storeRam (address : Byte) (s : State) : Result :=
  if address.toNat < s.addrSpace then
    .next (s.setRam (address.toNat - Config.regSize) s.ctx.shiftRegister)
  else .fault (.addressOutsideSpace address)

/-- W_RAM_16_31 (R203). -/
def execWRam16To31 (low : BitVec 4) (s : State) : Result := storeRam (1#4 ++ low) s

/-- W_RAM_32_63 (R203). -/
def execWRam32To63 (low : BitVec 5) (s : State) : Result := storeRam (1#3 ++ low) s

/-- W_RAM_64_127 (R203). -/
def execWRam64To127 (low : BitVec 6) (s : State) : Result := storeRam (1#2 ++ low) s

/-- W_RAM_128_255 (R203). -/
def execWRam128To255 (low : BitVec 7) (s : State) : Result := storeRam (1#1 ++ low) s

/-- `BankWrite(addr, shift_register)`: exactly one case applies (R190). -/
def bankWrite (a : Byte) (s : State) : Result :=
  if a = 0x00#8 then execWControl s
  else if a = 0x01#8 then execWCentiseconds s
  else if a = 0x02#8 then execWSeconds s
  else if a = 0x03#8 then execWMinutes s
  else if a = 0x04#8 then execWHours s
  else if a = 0x05#8 then execWYearDate s
  else if a = 0x06#8 then execWWeekdayMonth s
  else if a = 0x07#8 then execWTimerDays s
  else if a = 0x08#8 then execWAlarmControl s
  else if a = 0x09#8 then execWAlarmCentiseconds s
  else if a = 0x0A#8 then execWAlarmSeconds s
  else if a = 0x0B#8 then execWAlarmMinutes s
  else if a = 0x0C#8 then execWAlarmHours s
  else if a = 0x0D#8 then execWAlarmDate s
  else if a = 0x0E#8 then execWAlarmMonth s
  else if a = 0x0F#8 then execWAlarmTimer s
  else if a &&& 0xF0#8 = 0x10#8 then execWRam16To31 (a.extractLsb' 0 4) s
  else if a &&& 0xE0#8 = 0x20#8 then execWRam32To63 (a.extractLsb' 0 5) s
  else if a &&& 0xC0#8 = 0x40#8 then execWRam64To127 (a.extractLsb' 0 6) s
  else execWRam128To255 (a.extractLsb' 0 7) s

end Sys2Proof.Machine
end

