-- ==== Sys2Proof/Machine/FallingEdge.lean ====
section
/-! DEFINITION. Family FALL: the falling clock edge in each protocol state (R115 to R125). -/

namespace Sys2Proof.Machine

/-- FALL_IDLE: no transition; only a START leaves `IDLE` (R125). -/
def execFallIdle (s : State) : Result := .next s

/-- FALL_START_WAIT: no bit is sampled (R115). -/
def execFallStartWait (s : State) : Result := .next (s.setProtocol .getAddress)

/-- FALL_GET_ADDRESS: shift a bit in; the eighth completes the address byte (R116). -/
def execFallGetAddress (s : State) : Result :=
  let s₁ := s.shiftIn
  if s₁.byteDone then selectAddress s₁ else .next s₁

/-- FALL_ADDRESS_WRITE_ACK (R117). -/
def execFallAddressWriteAck (s : State) : Result := .next (s.resetShift.setProtocol .getRegNr)

/-- FALL_ADDRESS_READ_ACK: load the byte at the pointer as it stands (R122). -/
def execFallAddressReadAck (s : State) : Result :=
  andThen (bankRead s.ctx.registerPointer s) fun t => .next ((t.setBitCount 0).setProtocol .readRegs)

/-- FALL_GET_REG_NR: shift a bit in; the eighth commits the pointer (R118). -/
def execFallGetRegNr (s : State) : Result :=
  let s₁ := s.shiftIn
  .next (if s₁.byteDone then s₁.commitPointer.setProtocol .regNrAck else s₁)

/-- FALL_REG_NR_ACK (R119). -/
def execFallRegNrAck (s : State) : Result := .next (s.resetShift.setProtocol .writeRegs)

/-- FALL_READ_REGS: count the bit sent; `shift_register` is not changed (R123). -/
def execFallReadRegs (s : State) : Result :=
  let s₁ := s.setBitCount (s.ctx.bitCount + 1)
  .next (if s₁.byteDone then s₁.setProtocol .readAck else s₁)

/-- FALL_READ_ACK: on the master's ACK advance the pointer and load the next byte; on NACK abort with
the pointer kept (R124, R281). -/
def execFallReadAck (s : State) : Result :=
  if s.ctx.dataLine then .next s.abort
  else
    let s₁ := s.incrementPointer
    andThen (bankRead s₁.ctx.registerPointer s₁) fun t =>
      .next ((t.setBitCount 0).setProtocol .readRegs)

/-- FALL_WRITE_REGS: shift a bit in; the eighth writes the byte at the pointer, then advances it (R120,
R283(b)). -/
def execFallWriteRegs (s : State) : Result :=
  let s₁ := s.shiftIn
  if s₁.byteDone then
    andThen (bankWrite s₁.ctx.registerPointer s₁) fun t =>
      .next (t.incrementPointer.setProtocol .writeAck)
  else .next s₁

/-- FALL_WRITE_ACK (R121). -/
def execFallWriteAck (s : State) : Result := .next (s.resetShift.setProtocol .writeRegs)

/-- The one rule of R115 to R125 that the protocol state selects (R112). -/
def fallingEdge (s : State) : Result :=
  match s.ctx.protocolState with
  | .idle => execFallIdle s
  | .startWait => execFallStartWait s
  | .getAddress => execFallGetAddress s
  | .addressWriteAck => execFallAddressWriteAck s
  | .addressReadAck => execFallAddressReadAck s
  | .getRegNr => execFallGetRegNr s
  | .regNrAck => execFallRegNrAck s
  | .readRegs => execFallReadRegs s
  | .readAck => execFallReadAck s
  | .writeRegs => execFallWriteRegs s
  | .writeAck => execFallWriteAck s

end Sys2Proof.Machine
end

