-- ==== Sys2Proof/Machine/LineEdges.lean ====
section
/-! DEFINITION. Families CLK and DAT: a level-set call by the stored levels and the argument (R110 to
R112, R126 to R130). The operand of a row is the bit its pattern does not compare; no effect depends on
it. -/

namespace Sys2Proof.Machine

/-- CLK_SAME_LO: redundant `set_clock(0)` (R110). -/
def execClkSameLo (_dataLevel : Level) (s : State) : Result := .next s

/-- CLK_SAME_HI: redundant `set_clock(1)` (R110). -/
def execClkSameHi (_dataLevel : Level) (s : State) : Result := .next s

/-- CLK_RISE: only `clock_line` changes (R111). -/
def execClkRise (_dataLevel : Level) (s : State) : Result := .next (s.setClockLine true)

/-- CLK_FALL: `clock_line`, then the one rule of the protocol state (R112). -/
def execClkFall (_dataLevel : Level) (s : State) : Result := fallingEdge (s.setClockLine false)

/-- DAT_SAME_LO: redundant `set_data(0)`, no START even with the clock high (R126). -/
def execDatSameLo (_clockLevel : Level) (s : State) : Result := .next s

/-- DAT_SAME_HI: redundant `set_data(1)` (R126). -/
def execDatSameHi (_clockLevel : Level) (s : State) : Result := .next s

/-- DAT_RISE_CLKLOW: only `data_line` changes (R127). -/
def execDatRiseClklow (s : State) : Result := .next (s.setDataLine true)

/-- DAT_FALL_CLKLOW: only `data_line` changes (R127). -/
def execDatFallClklow (s : State) : Result := .next (s.setDataLine false)

/-- DAT_START: snapshot, reset of the shift logic, `START_WAIT`, in any protocol state (R128). -/
def execDatStart (s : State) : Result :=
  .next ((s.setDataLine false).buildSnapshot.resetShift.setProtocol .startWait)

/-- DAT_STOP: abort, in any protocol state (R129, R281). -/
def execDatStop (s : State) : Result := .next (s.setDataLine true).abort

/-- `set_clock(level)`: the CLK row of the stored level and the argument (R80, R130). -/
def setClock (level : Level) (s : State) : Result :=
  match s.ctx.clockLine, level with
  | false, false => execClkSameLo s.ctx.dataLine s
  | true, true => execClkSameHi s.ctx.dataLine s
  | false, true => execClkRise s.ctx.dataLine s
  | true, false => execClkFall s.ctx.dataLine s

/-- `set_data(level)`: the DAT row, by the redundancy test, then the clock level, then the direction of
the edge (R80, R130). -/
def setData (level : Level) (s : State) : Result :=
  match s.ctx.dataLine, level with
  | false, false => execDatSameLo s.ctx.clockLine s
  | true, true => execDatSameHi s.ctx.clockLine s
  | false, true => if s.ctx.clockLine then execDatStop s else execDatRiseClklow s
  | true, false => if s.ctx.clockLine then execDatStart s else execDatFallClklow s

end Sys2Proof.Machine
end

