-- ==== Sys2Proof/Machine/Events.lean ====
section
/-! DEFINITION. Family EV: the operation calls of the bus master (R104). -/

namespace Sys2Proof.Machine

/-- C0: `set_clock(0)` (R110, R112). -/
def execC0 (s : State) : Result := setClock false s

/-- C1: `set_clock(1)` (R110, R111). -/
def execC1 (s : State) : Result := setClock true s

/-- D0: `set_data(0)` (R126 to R128). -/
def execD0 (s : State) : Result := setData false s

/-- D1: `set_data(1)` (R126, R127, R129). -/
def execD1 (s : State) : Result := setData true s

/-- R: `read_data()`; the Context does not change (R133, R134). -/
def execR (s : State) : Result := .next (s.setResult s.ctx.drivenLevel)

end Sys2Proof.Machine
end

