-- ==== Sys2Proof/Machine/Dispatch.lean ====
section
/-! DEFINITION. The meaning of every instruction, one arm per row of the opcode table. -/

namespace Sys2Proof.Machine

def exec (i : Instr) (s : State) : Host.Outcome State Fault Refusal :=
  match i with
  | .c0 => Sys2Proof.Machine.execC0 s
  | .c1 => Sys2Proof.Machine.execC1 s
  | .d0 => Sys2Proof.Machine.execD0 s
  | .d1 => Sys2Proof.Machine.execD1 s
  | .r => Sys2Proof.Machine.execR s
  | .clkSameLo dataLevel => Sys2Proof.Machine.execClkSameLo dataLevel s
  | .clkSameHi dataLevel => Sys2Proof.Machine.execClkSameHi dataLevel s
  | .clkRise dataLevel => Sys2Proof.Machine.execClkRise dataLevel s
  | .clkFall dataLevel => Sys2Proof.Machine.execClkFall dataLevel s
  | .datSameLo clockLevel => Sys2Proof.Machine.execDatSameLo clockLevel s
  | .datSameHi clockLevel => Sys2Proof.Machine.execDatSameHi clockLevel s
  | .datRiseClklow => Sys2Proof.Machine.execDatRiseClklow s
  | .datFallClklow => Sys2Proof.Machine.execDatFallClklow s
  | .datStart => Sys2Proof.Machine.execDatStart s
  | .datStop => Sys2Proof.Machine.execDatStop s
  | .fallIdle => Sys2Proof.Machine.execFallIdle s
  | .fallStartWait => Sys2Proof.Machine.execFallStartWait s
  | .fallGetAddress => Sys2Proof.Machine.execFallGetAddress s
  | .fallAddressWriteAck => Sys2Proof.Machine.execFallAddressWriteAck s
  | .fallAddressReadAck => Sys2Proof.Machine.execFallAddressReadAck s
  | .fallGetRegNr => Sys2Proof.Machine.execFallGetRegNr s
  | .fallRegNrAck => Sys2Proof.Machine.execFallRegNrAck s
  | .fallReadRegs => Sys2Proof.Machine.execFallReadRegs s
  | .fallReadAck => Sys2Proof.Machine.execFallReadAck s
  | .fallWriteRegs => Sys2Proof.Machine.execFallWriteRegs s
  | .fallWriteAck => Sys2Proof.Machine.execFallWriteAck s
  | .slaW => Sys2Proof.Machine.execSlaW s
  | .slaR => Sys2Proof.Machine.execSlaR s
  | .addrOther busAddress direction => Sys2Proof.Machine.execAddrOther busAddress direction s
  | .wControl => Sys2Proof.Machine.execWControl s
  | .wCentiseconds => Sys2Proof.Machine.execWCentiseconds s
  | .wSeconds => Sys2Proof.Machine.execWSeconds s
  | .wMinutes => Sys2Proof.Machine.execWMinutes s
  | .wHours => Sys2Proof.Machine.execWHours s
  | .wYearDate => Sys2Proof.Machine.execWYearDate s
  | .wWeekdayMonth => Sys2Proof.Machine.execWWeekdayMonth s
  | .wTimerDays => Sys2Proof.Machine.execWTimerDays s
  | .wAlarmControl => Sys2Proof.Machine.execWAlarmControl s
  | .wAlarmCentiseconds => Sys2Proof.Machine.execWAlarmCentiseconds s
  | .wAlarmSeconds => Sys2Proof.Machine.execWAlarmSeconds s
  | .wAlarmMinutes => Sys2Proof.Machine.execWAlarmMinutes s
  | .wAlarmHours => Sys2Proof.Machine.execWAlarmHours s
  | .wAlarmDate => Sys2Proof.Machine.execWAlarmDate s
  | .wAlarmMonth => Sys2Proof.Machine.execWAlarmMonth s
  | .wAlarmTimer => Sys2Proof.Machine.execWAlarmTimer s
  | .wRam16To31 low => Sys2Proof.Machine.execWRam16To31 low s
  | .wRam32To63 low => Sys2Proof.Machine.execWRam32To63 low s
  | .wRam64To127 low => Sys2Proof.Machine.execWRam64To127 low s
  | .wRam128To255 low => Sys2Proof.Machine.execWRam128To255 low s
  | .rControl => Sys2Proof.Machine.execRControl s
  | .rCentiseconds => Sys2Proof.Machine.execRCentiseconds s
  | .rSeconds => Sys2Proof.Machine.execRSeconds s
  | .rMinutes => Sys2Proof.Machine.execRMinutes s
  | .rHours => Sys2Proof.Machine.execRHours s
  | .rYearDate => Sys2Proof.Machine.execRYearDate s
  | .rWeekdayMonth => Sys2Proof.Machine.execRWeekdayMonth s
  | .rTimerDays => Sys2Proof.Machine.execRTimerDays s
  | .rAlarmControl => Sys2Proof.Machine.execRAlarmControl s
  | .rAlarmCentiseconds => Sys2Proof.Machine.execRAlarmCentiseconds s
  | .rAlarmSeconds => Sys2Proof.Machine.execRAlarmSeconds s
  | .rAlarmMinutes => Sys2Proof.Machine.execRAlarmMinutes s
  | .rAlarmHours => Sys2Proof.Machine.execRAlarmHours s
  | .rAlarmDate => Sys2Proof.Machine.execRAlarmDate s
  | .rAlarmMonth => Sys2Proof.Machine.execRAlarmMonth s
  | .rAlarmTimer => Sys2Proof.Machine.execRAlarmTimer s
  | .rRam16To31 low => Sys2Proof.Machine.execRRam16To31 low s
  | .rRam32To63 low => Sys2Proof.Machine.execRRam32To63 low s
  | .rRam64To127 low => Sys2Proof.Machine.execRRam64To127 low s
  | .rRam128To255 low => Sys2Proof.Machine.execRRam128To255 low s

end Sys2Proof.Machine
end

