-- ==== Sys2Proof/Machine/Lifecycle.lean ====
section
/-! DEFINITION. The persistence backend by its contract, creation and destruction
(`44_host_lifecycle.md`). -/

namespace Sys2Proof.Machine

/-! ### The persistence backend -/

/-- The image held under a name (R262). -/
def Store.find : Store → String → Option Image
  | [], _ => none
  | (n, g) :: l, k => if n = k then some g else Store.find l k

/-- The store with nothing held under a name. -/
def Store.erase : Store → String → Store
  | [], _ => []
  | (n, g) :: l, k => if n = k then Store.erase l k else (n, g) :: Store.erase l k

/-- The store with an image, or none, held under a name. -/
def Store.put (l : Store) (k : String) (image : Option Image) : Store :=
  match image with
  | none => Store.erase l k
  | some g => (k, g) :: Store.erase l k

/-- `PS.load`: the image held under the name it is called with, `none` for not found. It cannot fail
(R262, R263). The sizes asked for are the caller's to compare (R261). -/
def Store.load (l : Store) (c : LoadCall) : Option Image := Store.find l c.deviceName

/-- `PS.save`: the three blocks are held under the name it is called with. It cannot fail (R262, R263). -/
def Store.save (l : Store) (c : SaveCall) : Store := Store.put l c.deviceName (some c.image)

/-- The state with the image under a name changed from outside (log entry 15). -/
def State.persisted (s : State) (deviceName : String) (image : Option Image) : State :=
  { s with stored := Store.put s.stored deviceName image }

/-! ### Creation -/

/-- What `PS.load` is called with (R260, R262). -/
def Params.loadArguments (p : Params) : LoadCall where
  deviceName := p.deviceName
  ramSize := p.ramSize
  registerSize := Config.regSize

/-- The state with a fresh instance: the blocks adopted, the baselines copied, every other element at
its value of R44, and the call of `PS.load` recorded (R260). -/
def State.created (s : State) (p : Params) (ram : Memory) (registers : RegisterBlock)
    (offset : Int) : State :=
  { s with
    ctx := Context.initial ram registers offset
    params := p
    live := true
    loadCall := some p.loadArguments }

/-- Adopting the answer of `PS.load`: zeros when nothing was found (R260, R263), refused when a block
has the wrong size (R261). -/
def adopt (p : Params) (found : Option Image) (s : State) : Result :=
  match found with
  | none => .next (s.created p [] RegisterBlock.zero 0)
  | some g =>
    if h : g.registers.length = Config.regSize then
      if g.ram.length = p.ramSize then
        .next (s.created p (Memory.ofBlock g.ram 0) (RegisterBlock.ofBlock g.registers h) g.offset)
      else .refused (.imageSizeMismatch g.ram.length g.registers.length)
    else .refused (.imageSizeMismatch g.ram.length g.registers.length)

/-- `Create`: once per instance, with a `RAM_SIZE` in 1..240 (R7); it loads by the device name (R260). -/
def create (p : Params) (s : State) : Result :=
  if s.live then .refused .alreadyCreated
  else if 1 ≤ p.ramSize ∧ p.ramSize ≤ Config.maxRamSize then
    adopt p (s.stored.load p.loadArguments) s
  else .refused (.ramSizeOutOfRange p.ramSize)

/-! ### Destruction -/

/-- `Dirty()`: values are compared, not histories (R265). -/
def Context.dirty (c : Context) : Bool :=
  c.ram != c.baselineRam || c.registers != c.baselineRegisters || c.offset != c.baselineOffset

/-- What `PS.save` receives: the current blocks, whole, and the offset (R264, R266). -/
def State.saveArguments (s : State) : SaveCall where
  image :=
    { ram := Memory.toBlock s.ctx.ram 0 s.params.ramSize
      registers := s.ctx.registers.toList
      offset := s.ctx.offset }
  ramSize := s.params.ramSize
  registerSize := Config.regSize
  deviceName := s.params.deviceName

/-- The state after the call of `PS.save` (R264). -/
def State.saved (s : State) : State :=
  { s with stored := s.stored.save s.saveArguments, saveCall := some s.saveArguments }

/-- The state after an instance has ceased to exist (R264). -/
def State.ended (s : State) : State := { s with live := false }

/-- `Destroy(save_requested)`, in any protocol state: a save if requested and dirty, then the instance
ceases to exist (R264). The baselines are not updated (R266). -/
def destroy (saveRequested : Bool) (s : State) : Result :=
  if s.live then
    .next (if saveRequested && s.ctx.dirty then s.saved else { s with saveCall := none }).ended
  else .refused .noInstance

end Sys2Proof.Machine
end

