-- ==== Sys2Proof/Machine/Fetch.lean ====
section
/-! DEFINITION. What the next step does: the next call of the outside is taken and, if it is a bus
operation, decoded (R5, R45, R104; log entry 5). -/

namespace Sys2Proof.Machine

/-- What a step found to do. -/
inductive Fetched where
  /-- No operation is called; the chip has no step of its own (R4). -/
  | nothing
  /-- A bus operation, on the state with the call taken and the host clock's answers in place. -/
  | instruction (i : Instr) (s : State)
  /-- A lifecycle operation or a call without meaning, with its outcome. -/
  | outcome (r : Result)

/-- The state in which the next call runs: the call taken from the list, the host clock answering `h`. -/
def State.taken (s : State) (rest : List Input) (h : HostClock) : State :=
  { s with inputs := rest, host := h }

/-- The next call of the outside. -/
def fetch (s : State) : Fetched :=
  match s.inputs with
  | [] => .nothing
  | .bus code h :: rest =>
    if s.live then
      match decode .ev code with
      | .ok i => .instruction i (s.taken rest h)
      | .error _ => .outcome (.refused (.notAnEvent code))
    else .outcome (.refused .noInstance)
  | .create p :: rest => .outcome (create p (s.taken rest s.host))
  | .destroy saveRequested :: rest => .outcome (destroy saveRequested (s.taken rest s.host))
  | .overlapping _ _ :: _ => .outcome (.refused .overlappingOperations)
  | .persist name image :: rest => .outcome (.next ((s.taken rest s.host).persisted name image))

/-- `s` with the event code `code` as the next call, on a live instance. -/
def State.withNextCall (s : State) (code : Byte) : State :=
  { s with live := true, inputs := .bus code s.host :: s.inputs }

end Sys2Proof.Machine
end

