-- ==== Sys2Proof/Machine/Step.lean ====
section
/-! DEFINITION. One step: one operation call, run to completion (R5). -/

namespace Sys2Proof.Machine

/-- One step (R5). With no call outstanding nothing changes (R4). -/
def step (s : State) : Host.Outcome State Fault Refusal :=
  match fetch s with
  | .nothing => .next s
  | .instruction i t => exec i t
  | .outcome r => r

/-- `s` with the word `w`, an event code of one byte (R104), as the next call, so that the next step
takes and runs it. -/
def State.withFetchWord (s : State) (_nbits w : Nat) : State :=
  s.withNextCall (BitVec.ofNat 8 w)

end Sys2Proof.Machine
end

