-- ==== Sys2Proof/Safety.lean ====
section
/-! DEFINITION. What claims call a well-kept state: the invariants of `10_state.md` section 6 and the
canonical form of the arrays. -/

namespace Sys2Proof

/-- The address of the RAM byte a bank row of the RAM ranges acts on, if the instruction is one. -/
def Instr.ramAddress : Instr → Option Byte
  | .wRam16To31 low | .rRam16To31 low => some (1#4 ++ low)
  | .wRam32To63 low | .rRam32To63 low => some (1#3 ++ low)
  | .wRam64To127 low | .rRam64To127 low => some (1#2 ++ low)
  | .wRam128To255 low | .rRam128To255 low => some (1#1 ++ low)
  | _ => none

end Sys2Proof

namespace Sys2Proof.Machine

/-- The values `bit_count` has in each protocol state (R31): 0..7 while a byte is in progress, 8 in the
acknowledge state after it, 0 after a START. -/
def ProtocolState.allowsBitCount : ProtocolState → Nat → Bool
  | .idle, n => n ≤ 8
  | .startWait, n => n == 0
  | .getAddress, n | .getRegNr, n | .writeRegs, n | .readRegs, n => n < 8
  | .addressWriteAck, n | .addressReadAck, n | .regNrAck, n | .writeAck, n | .readAck, n => n == 8

/-- A byte array of `n` bytes in canonical form. -/
def Memory.ok (n : Nat) (m : Memory) : Bool := Memory.wf m && Memory.below n m

/-- The invariant of every reachable state. -/
structure State.Inv (s : State) : Prop where
  /-- `RAM_SIZE` is legal (R7). -/
  ramSize : 1 ≤ s.params.ramSize ∧ s.params.ramSize ≤ 240
  /-- The pointer lies in the address space (R35). -/
  pointer : s.ctx.registerPointer.toNat < s.addrSpace
  /-- `bit_count` fits the protocol state (R31). -/
  bitCount : s.ctx.protocolState.allowsBitCount s.ctx.bitCount = true
  /-- `ram` has `RAM_SIZE` bytes, in canonical form (R21). -/
  ram : Memory.ok s.params.ramSize s.ctx.ram = true
  /-- `baseline_ram` has `RAM_SIZE` bytes, in canonical form (R34). -/
  baselineRam : Memory.ok s.params.ramSize s.ctx.baselineRam = true
  /-- Slots 1 to 7 of `registers` are as they were at creation (R23, R201, R267). -/
  timeSlots : ∀ i : Fin 16, 1 ≤ i.val → i.val ≤ 7 →
    s.ctx.registers[i] = s.ctx.baselineRegisters[i]

/-- A bus operation is the next call, and the instance exists. -/
def State.calls (s : State) (code : Byte) : Prop :=
  s.live = true ∧ code.toNat ≤ 4 ∧ ∃ h rest, s.inputs = .bus code h :: rest

/-- The next call is a START: `set_data(0)` with both lines high (R82, R128). -/
def State.callsStart (s : State) : Prop :=
  s.calls 0x02#8 ∧ s.ctx.clockLine = true ∧ s.ctx.dataLine = true

/-- The next call is a falling clock edge (R80). -/
def State.callsFall (s : State) : Prop :=
  s.calls 0x00#8 ∧ s.ctx.clockLine = true

/-- The next call is the eighth falling edge of a written data byte (R120). -/
def State.callsWrite (s : State) : Prop :=
  s.callsFall ∧ s.ctx.protocolState = .writeRegs ∧ s.ctx.bitCount = 7

/-- The next call is a creation (R260). -/
def State.callsCreate (s : State) : Prop :=
  ∃ p rest, s.inputs = .create p :: rest

/-- The next call queries `host_cs`: a START (R222). -/
def State.queriesCs (s : State) : Prop := s.callsStart

/-- The next call queries `host_now`: a START of a running clock, the write of a control byte that halts
or resumes (its bit 7 is bit 6 of the seven bits already in), or the write of a time field of a running
clock (R222). -/
def State.queriesNow (s : State) : Prop :=
  (s.callsStart ∧ s.ctx.halted = false) ∨
  (s.callsWrite ∧ s.ctx.registerPointer = 0 ∧ s.ctx.shiftRegister.getLsbD 6 ≠ s.ctx.halted) ∨
  (s.callsWrite ∧ 2 ≤ s.ctx.registerPointer.toNat ∧ s.ctx.registerPointer.toNat ≤ 6 ∧
    s.ctx.halted = false)

/-- The row of a falling clock edge in a protocol state (R112). -/
def ProtocolState.row : ProtocolState → Instr
  | .idle => .fallIdle
  | .startWait => .fallStartWait
  | .getAddress => .fallGetAddress
  | .addressWriteAck => .fallAddressWriteAck
  | .addressReadAck => .fallAddressReadAck
  | .getRegNr => .fallGetRegNr
  | .regNrAck => .fallRegNrAck
  | .readRegs => .fallReadRegs
  | .readAck => .fallReadAck
  | .writeRegs => .fallWriteRegs
  | .writeAck => .fallWriteAck

/-- The pattern of a line call: bit 2 the stored level of the line, bit 1 the argument, bit 0 the level of
the other line (R106). -/
def linePattern (stored argument other : Level) : Byte :=
  BitVec.ofNat 8 (4 * stored.toNat + 2 * argument.toNat + other.toNat)

/-- The byte a bank read finds at an address: the snapshot byte or the RAM byte (R178). -/
def State.bankByte (s : State) (a : Byte) : Byte :=
  if h : a.toNat < 16 then s.ctx.readSnapshot[a.toNat] else Memory.read s.ctx.ram (a.toNat - 16)

/-- The byte the storage holds behind an address: the register slot or the RAM byte (R61). -/
def State.storedByte (s : State) (a : Byte) : Byte :=
  if h : a.toNat < 16 then s.ctx.registers[a.toNat] else Memory.read s.ctx.ram (a.toNat - 16)

/-- The value of `shift_register` once the stored data level is shifted in (R114). -/
def State.shifted (s : State) : Byte :=
  BitVec.ofNat 8 (2 * s.ctx.shiftRegister.toNat + s.ctx.dataLine.toNat)

/-- The state with the virtual time moved to `t`: into the latch while halted, by the offset while
running (R199). -/
def State.withTime (s : State) (t : Int) : State :=
  if s.ctx.halted then s.setHaltLatch t else s.setOffset (s.ctx.offset + (t - s.virtualNow))

/-- The state with the bank and the time model of another: what a bank write may change. -/
def State.withBank (s t : State) : State :=
  { s with
    ctx :=
      { s.ctx with
        ram := t.ctx.ram
        registers := t.ctx.registers
        offset := t.ctx.offset
        haltLatch := t.ctx.haltLatch
        halted := t.ctx.halted
        amPm := t.ctx.amPm } }

/-- The bus operations of a trace one after another, each with the host clock's answers while it runs
(R104, R222). -/
def runTrace : List (Byte × HostClock) → State → Result
  | [], s => .next s
  | (code, h) :: trace, s =>
    andThen (step { s with inputs := [.bus code h] }) (runTrace trace)

/-- `BIT(x)`: one bit cell (R105). -/
def bitCell (x : Level) : List Byte := [if x then 0x03#8 else 0x02#8, 0x01#8, 0x00#8]

/-- The eight bit cells of a byte, bit 7 first (R85). -/
def byteCells (v : Byte) : List Byte :=
  bitCell (v.getLsbD 7) ++ bitCell (v.getLsbD 6) ++ bitCell (v.getLsbD 5) ++ bitCell (v.getLsbD 4) ++
    bitCell (v.getLsbD 3) ++ bitCell (v.getLsbD 2) ++ bitCell (v.getLsbD 1) ++ bitCell (v.getLsbD 0)

/-- `TX(v)`: a byte and its acknowledge cell (R105). -/
def sendByte (v : Byte) : List Byte := byteCells v ++ [0x03#8, 0x01#8, 0x04#8, 0x00#8]

/-- `START`: a START condition from any line levels, and the clock edge after it (R105). -/
def startTrace : List Byte := [0x03#8, 0x01#8, 0x02#8, 0x00#8]

end Sys2Proof.Machine
end

