-- ==== Sys2Proof/Certificates/Slice0/Obligations.lean ====
section
/-! DEFINITION. The statements for the provers. A docstring says what a statement says; the rules it
formalises and its basis are in OBLIGATIONS.json. -/

open Sys2Proof Sys2Proof.Machine

/-- For every well-formed instruction of all seven formats, with every operand at every value, decode of
encode is the instruction. The numbers of the patterns are the opcode table's, the spec's own
decision D24 (30_encoding.md section 9). -/
def Obligations.DecodeAfterEncode : Prop :=
  ∀ i : Instr, i.wellFormed = true → decode (encode i).1 (encode i).2 = .ok i

/-- If a byte decodes in a format to an instruction, the instruction is well formed and encodes to that
format and that byte: no bit of the byte is dropped. The numbers of the patterns are the opcode
table's, the spec's own decision D24 (30_encoding.md section 9). -/
def Obligations.EncodeAfterDecode : Prop :=
  ∀ (f : Format) (b : Byte) (i : Instr), decode f b = .ok i →
    i.wellFormed = true ∧ encode i = (f, b)

/-- One word per format decodes to the row the opcode map gives it. The numbers of the patterns are the
opcode table's, the spec's own decision D24 (30_encoding.md section 9). -/
def Obligations.KnownWordsDecode : Prop :=
  decode .ev 0b00000010#8 = .ok .d0 ∧ decode .clk 0b00000101#8 = .ok (.clkFall true) ∧
    decode .dat 0b00000101#8 = .ok .datStart ∧ decode .fall 0b00001001#8 = .ok .fallWriteRegs ∧
    decode .addr 0b10100001#8 = .ok .slaR ∧ decode .addr 0b10100010#8 = .ok (.addrOther 0x51#7 0#1) ∧
    decode .waddr 0b10000101#8 = .ok (.wRam128To255 5#7) ∧
    decode .raddr 0b00101111#8 = .ok (.rRam32To63 15#5)

/-- When the next call is an event code that decodes to a well-formed instruction, a step of a live
instance is exec of that instruction on the state with the call taken and the host clock answering
what the call carries. That calls wait in the field inputs and carry the clock's answers is the
model's choice of log entry 5 (00_scope.md section 2, 30_encoding.md section 8, 43_time_model.md
section 1). -/
def Obligations.StepRunsTheCalledOperation : Prop :=
  ∀ (s : State) (code : Byte) (h : HostClock) (rest : List Input) (i : Instr),
    s.live = true → s.inputs = .bus code h :: rest → decode .ev code = .ok i → i.wellFormed = true →
    step s = exec i { s with inputs := rest, host := h }

/-- A code above 4, a bus operation or a Destroy without an instance, and a bus operation that another
bus or lifecycle operation overlaps are refused, each by its own name. The event codes are the
spec's own decision D24; the waiting calls are the model's choice of log entry 5, the instance flag
that of log entry 8 (00_scope.md section 2, 10_state.md section 8, 30_encoding.md section 8,
44_host_lifecycle.md section 3). -/
def Obligations.CallsWithoutMeaningRefused : Prop :=
  ∀ (s : State) (code : Byte) (other : Option Byte) (h : HostClock) (b : Bool) (rest : List Input),
    (s.live = true → 4 < code.toNat → s.inputs = .bus code h :: rest →
      step s = .refused (.notAnEvent code)) ∧
    (s.live = false → s.inputs = .bus code h :: rest → step s = .refused .noInstance) ∧
    (s.live = false → s.inputs = .destroy b :: rest → step s = .refused .noInstance) ∧
    (s.inputs = .overlapping code other :: rest → step s = .refused .overlappingOperations)

/-- From every state that meets the invariant, a step that takes a bus operation answers a next state;
the instance, its parameters, what is stored and the recorded load and save stay, and exactly that
call is taken. The waiting calls are the model's choice of log entry 5 (00_scope.md section 5,
60_exceptions.md section 1). -/
def Obligations.EveryBusOperationCompletes : Prop :=
  ∀ (s : State) (code : Byte), s.Inv → s.calls code →
    ∃ t, step s = .next t ∧ t.live = true ∧ t.params = s.params ∧ t.stored = s.stored ∧
      t.loadCall = s.loadCall ∧ t.saveCall = s.saveCall ∧ t.inputs = s.inputs.tail

/-- Every one of the 69 instructions answers a next state in every state that meets the invariant (a row
of the RAM ranges: at an address inside the address space), and leaves the parameters, the host
clock, the calls to come, what is stored and the recorded load and save alone. That the rows of the
inner formats are instructions of their own is the model's choice of log entry 10 (00_scope.md
section 5, 20_memory.md section 1, 60_exceptions.md section 1). -/
def Obligations.EveryInstructionCompletes : Prop :=
  ∀ (i : Instr) (s : State), s.Inv → (∀ a, i.ramAddress = some a → a.toNat < s.addrSpace) →
    ∃ t, exec i s = .next t ∧ t.params = s.params ∧ t.live = s.live ∧ t.host = s.host ∧
      t.inputs = s.inputs ∧ t.stored = s.stored ∧ t.loadCall = s.loadCall ∧ t.saveCall = s.saveCall

/-- From every state that meets the invariant (legal RAM_SIZE, pointer in the address space, bit_count
fitting the protocol state, arrays in canonical form and of RAM_SIZE bytes, register slots 1 to 7 as
loaded), whatever is called, a next state meets it again. That slots 1 to 7 stay as loaded is the
spec's own inference (R23, R201, marked [derived]); bit_count by protocol state is its decision D4;
the canonical form is the model's choice of log entry 13 (10_state.md section 6, 10_state.md section
4, 10_state.md section 2, 20_memory.md section 2, 42_register_write.md section 3, 00_scope.md
section 3). -/
def Obligations.StepKeepsInvariant : Prop :=
  ∀ s t : State, s.Inv → step s = .next t → t.Inv

/-- State.reset meets the invariant of StepKeepsInvariant. The clauses of the invariant that are not the
spec's own words are named there (10_state.md section 6, 10_state.md section 8). -/
def Obligations.ResetMeetsInvariant : Prop :=
  State.reset.Inv

/-- Every element of the Context has at reset the value of the table of 10_state.md section 8 without an
image, the values that table marks as its own decision included (10_state.md section 8). -/
def Obligations.ResetValues : Prop :=
  (∀ k, Memory.read State.reset.ctx.ram k = 0) ∧ (∀ k, Memory.read State.reset.ctx.baselineRam k = 0) ∧
    (∀ k : Fin 16, State.reset.ctx.registers[k] = 0 ∧ State.reset.ctx.readSnapshot[k] = 0 ∧
      State.reset.ctx.baselineRegisters[k] = 0) ∧
    State.reset.ctx.offset = 0 ∧ State.reset.ctx.baselineOffset = 0 ∧ State.reset.ctx.haltLatch = 0 ∧
    State.reset.ctx.halted = false ∧ State.reset.ctx.amPm = false ∧
    State.reset.ctx.clockLine = true ∧ State.reset.ctx.dataLine = true ∧
    State.reset.ctx.protocolState = .idle ∧ State.reset.ctx.bitCount = 0 ∧
    State.reset.ctx.shiftRegister = 0 ∧ State.reset.ctx.registerPointer = 0

/-- At reset and after every creation the pointer is below ADDR_SPACE, and every step from a state of a
legal RAM_SIZE with the pointer below ADDR_SPACE leaves it below ADDR_SPACE (R35). -/
def Obligations.PointerStaysInRange : Prop :=
  State.reset.ctx.registerPointer.toNat < State.reset.addrSpace ∧
    (∀ s t : State, s.callsCreate → step s = .next t → t.ctx.registerPointer.toNat < t.addrSpace) ∧
    (∀ s t : State, 1 ≤ s.params.ramSize → s.params.ramSize ≤ 240 →
      s.ctx.registerPointer.toNat < s.addrSpace → step s = .next t →
      t.ctx.registerPointer.toNat < t.addrSpace)

/-- A Create with a legal RAM_SIZE, when PS.load with the device name, RAM_SIZE and 16 finds nothing
under the name, gives a live instance with zeroed RAM and registers, offset 0, baselines equal to
them, and every other element at its value of the reset table (its own decisions included). That the
load is recorded and finds what the name holds is log entry 15 (10_state.md section 8,
44_host_lifecycle.md section 2). -/
def Obligations.CreateWithoutImage : Prop :=
  ∀ (s : State) (p : Params) (rest : List Input),
    s.live = false → 1 ≤ p.ramSize → p.ramSize ≤ 240 → s.inputs = .create p :: rest →
    Store.find s.stored p.deviceName = none →
    step s = .next
      { s with
        ctx :=
          { ram := [], registers := RegisterBlock.zero, readSnapshot := RegisterBlock.zero, offset := 0,
            haltLatch := 0, halted := false, amPm := false, clockLine := true, dataLine := true,
            protocolState := .idle, bitCount := 0, shiftRegister := 0, registerPointer := 0,
            baselineRam := [], baselineRegisters := RegisterBlock.zero, baselineOffset := 0 }
        params := p
        live := true
        loadCall := some { deviceName := p.deviceName, ramSize := p.ramSize, registerSize := 16 }
        inputs := rest }

/-- A Create that finds an image of the right sizes stored under its device name, by the load it
records, adopts its RAM block, register block and offset, copies them into the baselines, and leaves
every other element at its value of the reset table, halted 0 whatever bit 7 of the loaded control
byte is. That the load is recorded and finds what the name holds is log entry 15. The values the
image does not give are the table's, its own decisions D2 and D3 among them (10_state.md section 8,
44_host_lifecycle.md section 2). -/
def Obligations.CreateFromImage : Prop :=
  ∀ (s : State) (p : Params) (g : Image) (rest : List Input),
    s.live = false → 1 ≤ p.ramSize → p.ramSize ≤ 240 → s.inputs = .create p :: rest →
    Store.find s.stored p.deviceName = some g →
    g.ram.length = p.ramSize → g.registers.length = 16 →
    ∃ t, step s = .next t ∧
      t = { s with ctx := Context.initial t.ctx.ram t.ctx.registers g.offset, params := p, live := true,
                   loadCall := some { deviceName := p.deviceName, ramSize := p.ramSize, registerSize := 16 },
                   inputs := rest } ∧
      (∀ k, k < p.ramSize → Memory.read t.ctx.ram k = g.ram.getD k 0) ∧
      t.ctx.registers.toList = g.registers ∧ t.ctx.offset = g.offset ∧
      t.ctx.baselineRam = t.ctx.ram ∧ t.ctx.baselineRegisters = t.ctx.registers ∧
      t.ctx.baselineOffset = t.ctx.offset ∧ t.ctx.halted = false ∧ t.ctx.amPm = false ∧
      t.ctx.protocolState = .idle ∧ t.ctx.registerPointer = 0

/-- A second Create of a live instance, a RAM_SIZE outside 1..240 and an image with a block of the wrong
size stored under the name are refused, each by its own name; nothing is padded or truncated. The
refusal of a second Create is the model's reading of "exactly once" (log entry 8); that of a wrong
size is the spec's own decision D25; the load finds what the name holds (log entry 15) (00_scope.md
section 3, 44_host_lifecycle.md section 2). -/
def Obligations.CreateRefusals : Prop :=
  ∀ (s : State) (p : Params) (g : Image) (rest : List Input), s.inputs = .create p :: rest →
    (s.live = true → step s = .refused .alreadyCreated) ∧
    (s.live = false → (p.ramSize = 0 ∨ 240 < p.ramSize) → step s = .refused (.ramSizeOutOfRange p.ramSize)) ∧
    (s.live = false → 1 ≤ p.ramSize → p.ramSize ≤ 240 → Store.find s.stored p.deviceName = some g →
      (g.ram.length ≠ p.ramSize ∨ g.registers.length ≠ 16) →
      step s = .refused (.imageSizeMismatch g.ram.length g.registers.length))

/-- A Destroy of a live instance in any protocol state ends the instance and changes nothing else of it;
it calls save, with the current RAM, registers, sizes, name and offset, which stores them under the
name and nothing under another, if and only if a save is requested and some RAM byte, some register
byte or the offset differs from its baseline. That the save puts the image under the name and
nothing under another is the model's choice of log entry 15; that the instance flag is cleared and
the rest of the ended instance stays is its choice of log entry 8, the baselines staying the spec's
own decision D25 (44_host_lifecycle.md section 1, 44_host_lifecycle.md section 3). -/
def Obligations.DestroySavesWhenDirty : Prop :=
  ∀ (s : State) (b : Bool) (rest : List Input),
    s.Inv → s.live = true → s.inputs = .destroy b :: rest →
    ∃ t, step s = .next t ∧ t = { s with live := false, inputs := rest, stored := t.stored, saveCall := t.saveCall } ∧
      ((b = true ∧
          ((∃ k, k < s.params.ramSize ∧ Memory.read s.ctx.ram k ≠ Memory.read s.ctx.baselineRam k) ∨
            (∃ k : Fin 16, s.ctx.registers[k] ≠ s.ctx.baselineRegisters[k]) ∨
            s.ctx.offset ≠ s.ctx.baselineOffset)) ↔ t.saveCall ≠ none) ∧
      (∀ c, t.saveCall = some c →
        c.image.ram.length = s.params.ramSize ∧
        (∀ k, k < s.params.ramSize → c.image.ram.getD k 0 = Memory.read s.ctx.ram k) ∧
        c.image.registers = s.ctx.registers.toList ∧ c.image.offset = s.ctx.offset ∧
        c.ramSize = s.params.ramSize ∧ c.registerSize = 16 ∧ c.deviceName = s.params.deviceName ∧
        ∀ n, Store.find t.stored n =
          if n = s.params.deviceName then some c.image else Store.find s.stored n) ∧
      (t.saveCall = none → t.stored = s.stored)

/-- A mutated instance destroyed with a save requested, then created again under the same device name
and RAM_SIZE, has the same RAM, registers and offset, through what is stored under the name; an
unmutated one is not saved, and without a request nothing is saved: what is stored stays (R268). -/
def Obligations.PersistenceRoundTrip : Prop :=
  ∀ (s : State) (rest : List Input), s.Inv → s.live = true →
    ((s.ctx.ram ≠ s.ctx.baselineRam ∨ s.ctx.registers ≠ s.ctx.baselineRegisters ∨
        s.ctx.offset ≠ s.ctx.baselineOffset) →
      ∀ p : Params, p.deviceName = s.params.deviceName → p.ramSize = s.params.ramSize →
        s.inputs = .destroy true :: .create p :: rest →
        ∃ t u, step s = .next t ∧ t.saveCall ≠ none ∧ step t = .next u ∧
          u.live = true ∧ u.params = p ∧ u.inputs = rest ∧ u.ctx.ram = s.ctx.ram ∧
          u.ctx.registers = s.ctx.registers ∧ u.ctx.offset = s.ctx.offset) ∧
    (s.ctx.ram = s.ctx.baselineRam → s.ctx.registers = s.ctx.baselineRegisters →
        s.ctx.offset = s.ctx.baselineOffset → s.inputs = .destroy true :: rest →
      ∃ t, step s = .next t ∧ t.saveCall = none ∧ t.stored = s.stored) ∧
    (s.inputs = .destroy false :: rest →
      ∃ t, step s = .next t ∧ t.saveCall = none ∧ t.stored = s.stored)

/-- set_clock and set_data with the stored level of their line change no state element, and neither do
the rows CLK_SAME_LO, CLK_SAME_HI, DAT_SAME_LO and DAT_SAME_HI; set_data(0) with the data line low
and the clock high is no START (R110, R126). -/
def Obligations.RedundantSets : Prop :=
  ∀ (s : State) (x : Level),
    (s.ctx.clockLine = false → exec .c0 s = .next s) ∧ (s.ctx.clockLine = true → exec .c1 s = .next s) ∧
    (s.ctx.dataLine = false → exec .d0 s = .next s) ∧ (s.ctx.dataLine = true → exec .d1 s = .next s) ∧
    exec (.clkSameLo x) s = .next s ∧ exec (.clkSameHi x) s = .next s ∧
    exec (.datSameLo x) s = .next s ∧ exec (.datSameHi x) s = .next s

/-- set_clock(1) with the clock low, and the row CLK_RISE, set clock_line and change nothing else; what
read_data returns is the same before and after (R111). -/
def Obligations.ClockRises : Prop :=
  ∀ (s : State) (x : Level),
    (s.ctx.clockLine = false →
      exec .c1 s = .next { s with ctx := { s.ctx with clockLine := true } }) ∧
    exec (.clkRise x) s = .next { s with ctx := { s.ctx with clockLine := true } } ∧
    exec .r { s with ctx := { s.ctx with clockLine := true } } =
      andThen (exec .r s) fun t => .next { t with ctx := { t.ctx with clockLine := true } }

/-- set_clock(0) with the clock high, and the row CLK_FALL, set clock_line to 0 and run exactly the row
of the protocol state the call began in; setting the clock line before or after a row is the same
(R112). -/
def Obligations.ClockFalls : Prop :=
  (∀ (s : State) (x : Level),
    (s.ctx.clockLine = true →
      exec .c0 s = exec s.ctx.protocolState.row { s with ctx := { s.ctx with clockLine := false } }) ∧
    exec (.clkFall x) s =
      exec s.ctx.protocolState.row { s with ctx := { s.ctx with clockLine := false } }) ∧
  (∀ (s : State) (q : ProtocolState) (x : Level),
    exec q.row { s with ctx := { s.ctx with clockLine := x } } =
      andThen (exec q.row s) fun t => .next { t with ctx := { t.ctx with clockLine := x } })

/-- set_clock and set_data are the CLK and DAT row that the pattern of stored level, argument and other
line decodes to. The numbers of the patterns are the opcode table's, the spec's own decision D24
(30_encoding.md section 1, 30_encoding.md section 9, 40_bus_protocol.md section 4). -/
def Obligations.LineCallsRunTheirRow : Prop :=
  ∀ (s : State) (x : Level) (i : Instr),
    (decode .clk (linePattern s.ctx.clockLine x s.ctx.dataLine) = .ok i →
      exec (if x then .c1 else .c0) s = exec i s) ∧
    (decode .dat (linePattern s.ctx.dataLine x s.ctx.clockLine) = .ok i →
      exec (if x then .d1 else .d0) s = exec i s)

/-- set_data with the clock low and a level that differs, and the rows DAT_RISE_CLKLOW and
DAT_FALL_CLKLOW, set data_line and change nothing else (R127). -/
def Obligations.DataMovesWithClockLow : Prop :=
  ∀ s : State,
    (s.ctx.clockLine = false → s.ctx.dataLine = false →
      exec .d1 s = .next { s with ctx := { s.ctx with dataLine := true } }) ∧
    (s.ctx.clockLine = false → s.ctx.dataLine = true →
      exec .d0 s = .next { s with ctx := { s.ctx with dataLine := false } }) ∧
    exec .datRiseClklow s = .next { s with ctx := { s.ctx with dataLine := true } } ∧
    exec .datFallClklow s = .next { s with ctx := { s.ctx with dataLine := false } }

/-- set_data(0) with both lines high, and the row DAT_START, set data_line to 0, rewrite read_snapshot,
zero bit_count and shift_register and enter START_WAIT; nothing else changes. That every protocol
state recognises it is the spec's own decision (40_bus_protocol.md section 4, 41_register_read.md
section 1). -/
def Obligations.StartCondition : Prop :=
  ∀ s : State,
    (s.ctx.clockLine = true → s.ctx.dataLine = true → exec .d0 s = exec .datStart s) ∧
    exec .datStart s = .next
      { s with
        ctx :=
          { s.ctx with
            dataLine := false, readSnapshot := s.snapshot, bitCount := 0, shiftRegister := 0,
            protocolState := .startWait } }

/-- set_data(1) with the clock high and the data line low, and the row DAT_STOP, set data_line to 1 and
protocol_state to IDLE; nothing else changes. That START_WAIT is no exception is the spec's own
decision (40_bus_protocol.md section 4, 60_exceptions.md section 1). -/
def Obligations.StopCondition : Prop :=
  ∀ s : State,
    (s.ctx.clockLine = true → s.ctx.dataLine = false → exec .d1 s = exec .datStop s) ∧
    exec .datStop s = .next { s with ctx := { s.ctx with dataLine := true, protocolState := .idle } }

/-- read_data returns bit 7 - bit_count of shift_register in READ_REGS, 0 in the five acknowledge states
and 1 in the other five, and records only that result. Which bit is current and that the call is
pure are the spec's own decisions (40_bus_protocol.md section 5). -/
def Obligations.ReadDataLevel : Prop :=
  ∀ s : State, ∃ l, exec .r s = .next { s with result := some l } ∧
    (s.ctx.protocolState = .readRegs → s.ctx.bitCount < 8 →
      l = s.ctx.shiftRegister.getLsbD (7 - s.ctx.bitCount)) ∧
    (s.ctx.protocolState ∈ [.addressWriteAck, .addressReadAck, .regNrAck, .writeAck, .readAck] →
      l = false) ∧
    (s.ctx.protocolState ∈ [.idle, .startWait, .getAddress, .getRegNr, .writeRegs] → l = true)

/-- The row FALL_IDLE changes nothing, and set_clock(0) in IDLE with the clock high changes only
clock_line. It is the spec's own inference from the source's list of transitions (40_bus_protocol.md
section 3) (40_bus_protocol.md section 3). -/
def Obligations.IdleClockEdge : Prop :=
  ∀ s : State, exec .fallIdle s = .next s ∧
    (s.ctx.protocolState = .idle → s.ctx.clockLine = true →
      exec .c0 s = .next { s with ctx := { s.ctx with clockLine := false } })

/-- The edge in START_WAIT only enters GET_ADDRESS; the edges in ADDRESS_WRITE_ACK, REG_NR_ACK and
WRITE_ACK zero bit_count and shift_register and enter GET_REG_NR, WRITE_REGS and WRITE_REGS (R113,
R115, R117, R119, R121). -/
def Obligations.EdgesWithoutData : Prop :=
  ∀ s : State,
    exec .fallStartWait s = .next { s with ctx := { s.ctx with protocolState := .getAddress } } ∧
    exec .fallAddressWriteAck s = .next
      { s with ctx := { s.ctx with bitCount := 0, shiftRegister := 0, protocolState := .getRegNr } } ∧
    exec .fallRegNrAck s = .next
      { s with ctx := { s.ctx with bitCount := 0, shiftRegister := 0, protocolState := .writeRegs } } ∧
    exec .fallWriteAck s = .next
      { s with ctx := { s.ctx with bitCount := 0, shiftRegister := 0, protocolState := .writeRegs } }

/-- The edge in GET_ADDRESS shifts a bit in; on the eighth the assembled byte runs its ADDR row, which
enters ADDRESS_WRITE_ACK for 0xA0, ADDRESS_READ_ACK for 0xA1 and IDLE for every other byte, and
nothing else changes. The rows SLA_W, SLA_R and ADDR_OTHER change only protocol_state. That the rows
of the address byte are instructions of their own is the model's choice of log entry 10
(30_encoding.md section 3, 40_bus_protocol.md section 3). -/
def Obligations.AddressByteReceived : Prop :=
  (∀ s : State,
    (s.ctx.bitCount < 7 → exec .fallGetAddress s = .next
      { s with ctx := { s.ctx with shiftRegister := s.shifted, bitCount := s.ctx.bitCount + 1 } }) ∧
    (s.ctx.bitCount = 7 → exec .fallGetAddress s =
      exec (decodeAddr s.shifted)
        { s with ctx := { s.ctx with shiftRegister := s.shifted, bitCount := 8 } })) ∧
  (∀ (s : State) (a : BitVec 7) (d : BitVec 1),
    exec .slaW s = .next { s with ctx := { s.ctx with protocolState := .addressWriteAck } } ∧
    exec .slaR s = .next { s with ctx := { s.ctx with protocolState := .addressReadAck } } ∧
    exec (.addrOther a d) s = .next { s with ctx := { s.ctx with protocolState := .idle } }) ∧
  (∀ b : Byte, (decodeAddr b = .slaW ↔ b = 0xA0#8) ∧ (decodeAddr b = .slaR ↔ b = 0xA1#8))

/-- The edge in GET_REG_NR shifts a bit in; on the eighth register_pointer becomes the assembled byte
modulo ADDR_SPACE (the reduction is the spec's own decision) and REG_NR_ACK is entered; nothing else
changes (20_memory.md section 2, 40_bus_protocol.md section 3). -/
def Obligations.PointerByteReceived : Prop :=
  ∀ s : State,
    (s.ctx.bitCount < 7 → exec .fallGetRegNr s = .next
      { s with ctx := { s.ctx with shiftRegister := s.shifted, bitCount := s.ctx.bitCount + 1 } }) ∧
    (s.ctx.bitCount = 7 → ∃ p : Byte, p.toNat = s.shifted.toNat % s.addrSpace ∧
      exec .fallGetRegNr s = .next
        { s with
          ctx :=
            { s.ctx with
              shiftRegister := s.shifted, bitCount := 8, registerPointer := p,
              protocolState := .regNrAck } })

/-- The edge in READ_REGS adds one to bit_count, enters READ_ACK on the eighth, and changes nothing
else; shift_register is kept. That the byte is kept while it is sent is the spec's own decision D7
(40_bus_protocol.md section 3). -/
def Obligations.SentBitCounted : Prop :=
  ∀ s : State,
    (s.ctx.bitCount < 7 →
      exec .fallReadRegs s = .next { s with ctx := { s.ctx with bitCount := s.ctx.bitCount + 1 } }) ∧
    (s.ctx.bitCount = 7 →
      exec .fallReadRegs s = .next
        { s with ctx := { s.ctx with bitCount := 8, protocolState := .readAck } })

/-- The edge in READ_ACK with data_line 1 enters IDLE with the pointer kept; with data_line 0 it
advances the pointer modulo ADDR_SPACE, loads the byte at the new pointer and enters READ_REGS with
bit_count 0; nothing else changes. That the pointer is kept on a NACK is the spec's own decision D9
(20_memory.md section 2, 40_bus_protocol.md section 3). -/
def Obligations.MasterAcknowledges : Prop :=
  ∀ s : State,
    (s.ctx.dataLine = true →
      exec .fallReadAck s = .next { s with ctx := { s.ctx with protocolState := .idle } }) ∧
    (s.ctx.dataLine = false → 1 ≤ s.params.ramSize → s.params.ramSize ≤ 240 →
      ∃ p : Byte, p.toNat = (s.ctx.registerPointer.toNat + 1) % (16 + s.params.ramSize) ∧
        exec .fallReadAck s = .next
          { s with
            ctx :=
              { s.ctx with
                registerPointer := p, shiftRegister := s.bankByte p, bitCount := 0,
                protocolState := .readRegs } })

/-- The edge in ADDRESS_READ_ACK loads the byte at register_pointer into shift_register, zeroes
bit_count and enters READ_REGS, nothing else changes, and from then on read_data returns bit 7 of
the loaded byte (R122). -/
def Obligations.ReadTransferLoadsByte : Prop :=
  ∀ s : State, s.ctx.registerPointer.toNat < s.addrSpace →
    ∃ t, exec .fallAddressReadAck s = .next t ∧
      t = { s with
            ctx :=
              { s.ctx with
                shiftRegister := s.bankByte s.ctx.registerPointer, bitCount := 0,
                protocolState := .readRegs } } ∧
      exec .r t = .next { t with result := some ((s.bankByte s.ctx.registerPointer).getLsbD 7) }

/-- The edge in WRITE_REGS shifts a bit in; on the eighth the WADDR row of the pointer runs with the
assembled byte, then the pointer advances modulo ADDR_SPACE and WRITE_ACK is entered; beside that
only the bank and the time model may change. That the row of the pointer is an instruction of its
own is the model's choice of log entry 10 (20_memory.md section 2, 40_bus_protocol.md section 3,
60_exceptions.md section 3). -/
def Obligations.DataByteReceived : Prop :=
  ∀ s : State,
    (s.ctx.bitCount < 7 → exec .fallWriteRegs s = .next
      { s with ctx := { s.ctx with shiftRegister := s.shifted, bitCount := s.ctx.bitCount + 1 } }) ∧
    (s.ctx.bitCount = 7 → 1 ≤ s.params.ramSize → s.params.ramSize ≤ 240 →
      s.ctx.registerPointer.toNat < s.addrSpace →
      ∃ (u : State) (p : Byte), p.toNat = (s.ctx.registerPointer.toNat + 1) % (16 + s.params.ramSize) ∧
        exec (decodeWaddr s.ctx.registerPointer)
          { s with ctx := { s.ctx with shiftRegister := s.shifted, bitCount := 8 } } = .next u ∧
        exec .fallWriteRegs s = .next
          { s with
            ctx :=
              { s.ctx with
                shiftRegister := s.shifted, bitCount := 8, registerPointer := p,
                protocolState := .writeAck,
                ram := u.ctx.ram, registers := u.ctx.registers, offset := u.ctx.offset,
                haltLatch := u.ctx.haltLatch, halted := u.ctx.halted, amPm := u.ctx.amPm } })

/-- Every RADDR row, R_CONTROL to R_ALARM_TIMER and the four R_RAM rows, at an address inside the
address space loads read_snapshot[addr] or ram[addr - 16] into shift_register and changes nothing
else. That the byte read goes to shift_register in the row itself is the model's choice of log entry
10 (40_bus_protocol.md section 3, 41_register_read.md section 2). -/
def Obligations.BankReads : Prop :=
  ∀ (a : Byte) (i : Instr) (s : State), decode .raddr a = .ok i → a.toNat < s.addrSpace →
    exec i s = .next { s with ctx := { s.ctx with shiftRegister := s.bankByte a } }

/-- The rows W_RAM_16_31 to W_RAM_128_255 at an address inside the address space store the written byte
at ram[addr - 16]; every other RAM byte and everything else stays (R203). -/
def Obligations.RamWrites : Prop :=
  ∀ (a : Byte) (i : Instr) (s : State), decode .waddr a = .ok i → 16 ≤ a.toNat →
    a.toNat < s.addrSpace → Memory.wf s.ctx.ram = true →
    ∃ t, exec i s = .next t ∧ t = { s with ctx := { s.ctx with ram := t.ctx.ram } } ∧
      ∀ k, Memory.read t.ctx.ram k =
        if k = a.toNat - 16 then s.ctx.shiftRegister else Memory.read s.ctx.ram k

/-- The RAM rows of the bank read and write at an address at or above ADDR_SPACE fault by name; the spec
says such an address does not occur, and that it faults is the model's choice of log entry 12
(10_state.md section 6, 30_encoding.md section 9). -/
def Obligations.RamRowsOutsideSpaceFault : Prop :=
  ∀ (i : Instr) (a : Byte) (s : State), i.ramAddress = some a → s.addrSpace ≤ a.toNat →
    exec i s = .fault (.addressOutsideSpace a)

/-- The rows W_ALARM_CONTROL to W_ALARM_TIMER store the written byte in their slot of registers and
change nothing else (R202). -/
def Obligations.AlarmWrites : Prop :=
  ∀ (n : Fin 16) (i : Instr) (s : State), 8 ≤ n.val → decode .waddr (BitVec.ofNat 8 n.val) = .ok i →
    ∃ t, exec i s = .next t ∧ t = { s with ctx := { s.ctx with registers := t.ctx.registers } } ∧
      t.ctx.registers[n] = s.ctx.shiftRegister ∧
      ∀ m : Fin 16, m ≠ n → t.ctx.registers[m] = s.ctx.registers[m]

/-- The rows W_TIMER_DAYS and W_CENTISECONDS change nothing; every START, whatever the offset and halted
or running, puts 0x00 at byte 7 of the snapshot and the BCD of host_cs at byte 1; a data byte
received at address 1 or 7 changes no register and no time, and the pointer still advances (R168,
R192, R198). -/
def Obligations.IgnoredWrites : Prop :=
  ∀ s : State, exec .wTimerDays s = .next s ∧ exec .wCentiseconds s = .next s ∧
    (∃ t, exec .datStart s = .next t ∧ t.ctx.readSnapshot[7] = 0x00#8 ∧
      t.ctx.readSnapshot[1] = bcd s.host.cs) ∧
    (s.ctx.bitCount = 7 → 1 ≤ s.params.ramSize → s.params.ramSize ≤ 240 →
      (s.ctx.registerPointer = 1#8 ∨ s.ctx.registerPointer = 7#8) →
      ∃ t, exec .fallWriteRegs s = .next t ∧ t =
        { s with
          ctx :=
            { s.ctx with
              shiftRegister := t.ctx.shiftRegister, bitCount := t.ctx.bitCount,
              registerPointer := s.ctx.registerPointer + 1#8, protocolState := t.ctx.protocolState } })

/-- W_CONTROL stores the byte in registers[0]. With bit 7 set on a running clock it captures host_now +
offset and sets halted; with bit 7 clear on a halted clock the offset becomes offset - (host_now -
(halt_latch - offset)), which is halt_latch - host_now, and halted is cleared; otherwise nothing
else changes. That the flag and not the stored byte decides is the spec's own decision. The short
form of the offset is the spec's own inference (43_time_model.md section 3) (42_register_write.md
section 2, 43_time_model.md section 3). -/
def Obligations.ControlWrite : Prop :=
  ∀ s : State, ∃ t, exec .wControl s = .next t ∧
    t.ctx.registers[0] = s.ctx.shiftRegister ∧
    (∀ m : Fin 16, m.val ≠ 0 → t.ctx.registers[m] = s.ctx.registers[m]) ∧
    t = { s with
          ctx :=
            { s.ctx with
              registers := t.ctx.registers, offset := t.ctx.offset, haltLatch := t.ctx.haltLatch,
              halted := t.ctx.halted } } ∧
    t.ctx.halted = s.ctx.shiftRegister.getLsbD 7 ∧
    t.ctx.haltLatch =
      (if s.ctx.shiftRegister.getLsbD 7 = true ∧ s.ctx.halted = false then s.host.now + s.ctx.offset
        else s.ctx.haltLatch) ∧
    t.ctx.offset =
      (if s.ctx.shiftRegister.getLsbD 7 = false ∧ s.ctx.halted = true then
          s.ctx.offset - (s.host.now - (s.ctx.haltLatch - s.ctx.offset))
        else s.ctx.offset) ∧
    (s.ctx.shiftRegister.getLsbD 7 = false → s.ctx.halted = true →
      t.ctx.offset = s.ctx.haltLatch - s.host.now)

/-- Immediately after any control write the virtual time is the one immediately before it; across a halt
and a later resume, whatever the host clock did between, it is the one at the halt. The first
sentence is the spec's own inference (43_time_model.md section 3) (43_time_model.md section 3). -/
def Obligations.TimeIsContinuous : Prop :=
  (∀ s : State, ∃ t, exec .wControl s = .next t ∧ t.virtualNow = s.virtualNow) ∧
  (∀ (s : State) (h : HostClock) (v : Byte), s.ctx.halted = false →
    s.ctx.shiftRegister.getLsbD 7 = true → v.getLsbD 7 = false →
    ∃ t u, exec .wControl s = .next t ∧
      exec .wControl { t with host := h, ctx := { t.ctx with shiftRegister := v } } = .next u ∧
      u.virtualNow = s.virtualNow ∧ u.ctx.halted = false)

/-- W_SECONDS and W_MINUTES move the virtual time, in the latch while halted and by the offset while
running, to the backend's answer for the whole written byte in BCD, and change nothing else. That no
bit is masked is the spec's own decision D19, the routing into the offset D22 (42_register_write.md
section 2, 42_register_write.md section 3, 43_time_model.md section 4). -/
def Obligations.SecondAndMinuteWrites : Prop :=
  ∀ s : State,
    exec .wSeconds s = .next
      (s.withTime (s.timeBackend.setLatched .second s.ctx.shiftRegister true s.virtualNow)) ∧
    exec .wMinutes s = .next
      (s.withTime (s.timeBackend.setLatched .minute s.ctx.shiftRegister true s.virtualNow))

/-- W_HOURS sets am_pm to bit 7; with it set the backend is given bits 4..0 with bit 6 moved to bit 5 in
the 12-hour form, else bits 5..0 in the 24-hour form; the virtual time moves to its answer and
nothing else changes. The two forms are the spec's own decision D18, the backend's 12-hour format
D14 (42_register_write.md section 2, 42_register_write.md section 3, 43_time_model.md section 4). -/
def Obligations.HourWrite : Prop :=
  ∀ (s : State) (r : Byte),
    (128 ≤ s.ctx.shiftRegister.toNat →
      r.toNat = s.ctx.shiftRegister.toNat % 32 + 32 * (s.ctx.shiftRegister.toNat / 64 % 2) →
      exec .wHours s = .next
        (({ s with ctx := { s.ctx with amPm := true } } : State).withTime
          (s.timeBackend.setLatched .hourAmPm r true s.virtualNow))) ∧
    (s.ctx.shiftRegister.toNat < 128 → r.toNat = s.ctx.shiftRegister.toNat % 64 →
      exec .wHours s = .next
        (({ s with ctx := { s.ctx with amPm := false } } : State).withTime
          (s.timeBackend.setLatched .hour r true s.virtualNow)))

/-- W_YEAR_DATE moves the virtual time first to the backend's answer for the day in bits 5..0, then to
its answer for the year of that time with its place in the block of four replaced by bits 7..6;
nothing else changes. The block of four years and the order are the spec's own decision D20
(42_register_write.md section 2, 42_register_write.md section 3, 43_time_model.md section 4). -/
def Obligations.YearDateWrite : Prop :=
  ∀ (s : State) (t₁ : Int) (d y : Byte),
    d.toNat = s.ctx.shiftRegister.toNat % 64 →
    t₁ = s.timeBackend.setLatched .dayOfMonth d true s.virtualNow →
    y.toNat = (s.timeBackend.get .year t₁ false).toNat / 4 * 4 + s.ctx.shiftRegister.toNat / 64 →
    exec .wYearDate s = .next (s.withTime (s.timeBackend.setLatched .year y false t₁))

/-- W_WEEKDAY_MONTH moves the virtual time first to the backend's answer for the month in bits 4..0,
then to its answer for the weekday (code + 6) mod 7 with the code in bits 7..5; nothing else
changes. The code of the weekday and the order are the spec's own decision D21 (42_register_write.md
section 2, 42_register_write.md section 3, 43_time_model.md section 4). -/
def Obligations.WeekdayMonthWrite : Prop :=
  ∀ (s : State) (m w : Byte),
    m.toNat = s.ctx.shiftRegister.toNat % 32 → w.toNat = (s.ctx.shiftRegister.toNat / 32 + 6) % 7 →
    exec .wWeekdayMonth s = .next
      (s.withTime
        (s.timeBackend.setLatched .weekday w false
          (s.timeBackend.setLatched .month m true s.virtualNow)))

/-- With the same host clock, a valid BCD byte written to the seconds or to the minutes is the byte of
the next snapshot at that address; the other of the two, the hour, the date byte and the month of
the snapshot are what they were, halted or running, in either hour form. It rests on the backend
contract, the spec's own decisions D22 and D26 (41_register_read.md section 1, 42_register_write.md
section 2, 43_time_model.md section 4). -/
def Obligations.SecondsReadBack : Prop :=
  ∀ (s : State) (n : Nat), n < 60 → s.ctx.shiftRegister = bcd n →
    (∃ t u, exec .wSeconds s = .next t ∧ exec .datStart t = .next u ∧
      u.ctx.readSnapshot[2] = s.ctx.shiftRegister ∧ u.ctx.readSnapshot[3] = s.snapshot[3] ∧
      u.ctx.readSnapshot[4] = s.snapshot[4] ∧ u.ctx.readSnapshot[5] = s.snapshot[5] ∧
      u.ctx.readSnapshot[6].toNat % 32 = s.snapshot[6].toNat % 32) ∧
    (∃ t u, exec .wMinutes s = .next t ∧ exec .datStart t = .next u ∧
      u.ctx.readSnapshot[3] = s.ctx.shiftRegister ∧ u.ctx.readSnapshot[2] = s.snapshot[2] ∧
      u.ctx.readSnapshot[4] = s.snapshot[4] ∧ u.ctx.readSnapshot[5] = s.snapshot[5] ∧
      u.ctx.readSnapshot[6].toNat % 32 = s.snapshot[6].toNat % 32)

/-- With the same host clock, the canonical byte of an hour 0..23, in 24-hour form or in 12-hour form
with its AM/PM mark in bit 6, written to the hours is the byte of the next snapshot; seconds,
minutes, the date byte and the month of the snapshot stay. It rests on the backend contract, the
spec's own decisions D14, D18, D22 and D26 (41_register_read.md section 1, 42_register_write.md
section 2, 43_time_model.md section 4). -/
def Obligations.HourReadsBack : Prop :=
  ∀ (s : State) (h : Nat) (twelve : Bool), h < 24 →
    s.ctx.shiftRegister =
      (if twelve then
        0x80#8 ||| (if 12 ≤ h then 0x40#8 else 0#8) ||| bcd (if h % 12 = 0 then 12 else h % 12)
      else bcd h) →
    ∃ t u, exec .wHours s = .next t ∧ exec .datStart t = .next u ∧ u.ctx.amPm = twelve ∧
      u.ctx.readSnapshot[4] = s.ctx.shiftRegister ∧ u.ctx.readSnapshot[2] = s.snapshot[2] ∧
      u.ctx.readSnapshot[3] = s.snapshot[3] ∧ u.ctx.readSnapshot[5] = s.snapshot[5] ∧
      u.ctx.readSnapshot[6].toNat % 32 = s.snapshot[6].toNat % 32

/-- With the same host clock: a valid day and a year place 0..3 written to the year and date register
are the byte of the next snapshot, if the date exists in the month before and after the year
changes; a weekday code 1..7 written is the weekday code of the next snapshot, if after the month is
set a date with that weekday exists fewer than 7 days away. It rests on the backend contract, the
spec's own decisions D20 to D22 and D26, and on log entry 3, which takes "the date exists" to mean
that the backend itself shows it at some time of the same century (41_register_read.md section 1,
42_register_write.md section 2, 43_time_model.md section 4). -/
def Obligations.DateReadsBack : Prop :=
  ∀ s : State,
    (∀ (d q y : Nat) (t₁ : Int), 1 ≤ d → d ≤ 31 → q < 4 → s.ctx.shiftRegister.toNat = 64 * q + (bcd d).toNat →
      s.timeBackend.DateExists .dayOfMonth d s.virtualNow →
      t₁ = s.timeBackend.setLatched .dayOfMonth (bcd d) true s.virtualNow →
      y = s.timeBackend.number .year t₁ / 4 * 4 + q →
      s.timeBackend.DateExists .year y t₁ →
      ∃ t u, exec .wYearDate s = .next t ∧ exec .datStart t = .next u ∧
        u.ctx.readSnapshot[5] = s.ctx.shiftRegister) ∧
    (∀ (w : Nat) (m : Byte) (t₁ t₂ : Int), w < 7 → s.ctx.shiftRegister.toNat / 32 = w + 1 →
      m.toNat = s.ctx.shiftRegister.toNat % 32 →
      t₁ = s.timeBackend.setLatched .month m true s.virtualNow →
      s.timeBackend.MovesToWeekday w t₁ t₂ →
      ∃ t u, exec .wWeekdayMonth s = .next t ∧ exec .datStart t = .next u ∧
        u.ctx.readSnapshot[6].toNat / 32 = s.ctx.shiftRegister.toNat / 32)

/-- After a START bytes 0 and 8 to 15 of the snapshot are the bytes registers held (R161, R169, R170,
R171, R172, R173, R174, R175, R176). -/
def Obligations.SnapshotStoredBytes : Prop :=
  ∀ s : State, ∃ t, exec .datStart s = .next t ∧ t.ctx.registers = s.ctx.registers ∧
    t.ctx.readSnapshot[0] = s.ctx.registers[0] ∧
    ∀ k : Fin 16, 8 ≤ k.val → t.ctx.readSnapshot[k] = s.ctx.registers[k]

/-- After a START bytes 2 and 3 are the backend's BCD second and minute of halt_latch while halted and
of host_now + offset while running, and encode numbers below 60 (R163, R164). -/
def Obligations.SnapshotSecondsMinutes : Prop :=
  ∀ s : State, ∃ t, exec .datStart s = .next t ∧
    t.ctx.readSnapshot[2] =
      s.timeBackend.get .second
        (if s.ctx.halted then s.ctx.haltLatch else s.host.now + s.ctx.offset) true ∧
    t.ctx.readSnapshot[3] =
      s.timeBackend.get .minute
        (if s.ctx.halted then s.ctx.haltLatch else s.host.now + s.ctx.offset) true ∧
    (∃ n, n < 60 ∧ t.ctx.readSnapshot[2] = bcd n) ∧ (∃ n, n < 60 ∧ t.ctx.readSnapshot[3] = bcd n)

/-- After a START byte 4 is the BCD hour in 24-hour form, or in 12-hour form bit 7, the PM mark in bit 6
and the BCD 12-hour value; the hour is the backend's hour of the virtual time. The 12-hour format is
the spec's own decisions D14 and D15, the range of the hour D26 (41_register_read.md section 1,
43_time_model.md section 4). -/
def Obligations.SnapshotHours : Prop :=
  ∀ s : State, ∃ t h, exec .datStart s = .next t ∧ h < 24 ∧
    h = (s.timeBackend.get .hour s.virtualNow false).toNat ∧
    t.ctx.readSnapshot[4] =
      if s.ctx.amPm then
        0x80#8 ||| (if 12 ≤ h then 0x40#8 else 0#8) ||| bcd (if h % 12 = 0 then 12 else h % 12)
      else bcd h

/-- After a START byte 1 is the BCD host_cs whatever the offset, the latch and halted are; byte 5 has
the day 1..31 in BCD in bits 5..0 and the year modulo 4 in bits 7..6; byte 6 has the month 1..12 in
BCD in bits 4..0 and the weekday plus one in bits 7..5, all of the virtual time. The BCD modes are
the spec's own decision (41_register_read.md section 1, 43_time_model.md section 1, 43_time_model.md
section 4). -/
def Obligations.SnapshotCentisecondsAndDate : Prop :=
  ∀ s : State, ∃ t d m y w, exec .datStart s = .next t ∧
    t.ctx.readSnapshot[1] = bcd s.host.cs.val ∧
    d = (s.timeBackend.get .dayOfMonth s.virtualNow false).toNat ∧ 1 ≤ d ∧ d ≤ 31 ∧
    m = (s.timeBackend.get .month s.virtualNow false).toNat ∧ 1 ≤ m ∧ m ≤ 12 ∧
    y = (s.timeBackend.get .year s.virtualNow false).toNat ∧ y < 100 ∧
    w = (s.timeBackend.get .weekday s.virtualNow false).toNat ∧ w < 7 ∧
    t.ctx.readSnapshot[5].toNat = (bcd d).toNat + 64 * (y % 4) ∧
    t.ctx.readSnapshot[6].toNat = (bcd m).toNat + 32 * (w + 1)

/-- A step that is neither a START nor a creation leaves every byte of read_snapshot as it was (R37). -/
def Obligations.SnapshotOnlyAtStart : Prop :=
  ∀ s t : State, ¬s.callsStart → ¬s.callsCreate → step s = .next t →
    t.ctx.readSnapshot = s.ctx.readSnapshot

/-- A bus operation that is not the eighth falling edge of a written byte leaves RAM, registers, offset,
latch, halted and am_pm; the pointer moves only on that edge, on the eighth edge of a pointer byte
and on an acknowledged READ_ACK; no bus operation changes a baseline. It is the spec's own inference
from its transition table (40_bus_protocol.md section 7) (10_state.md section 5, 20_memory.md
section 2, 40_bus_protocol.md section 7). -/
def Obligations.WhatABusOperationReaches : Prop :=
  ∀ (s t : State) (code : Byte), s.calls code → step s = .next t →
    (¬s.callsWrite →
      t.ctx.ram = s.ctx.ram ∧ t.ctx.registers = s.ctx.registers ∧ t.ctx.offset = s.ctx.offset ∧
      t.ctx.haltLatch = s.ctx.haltLatch ∧ t.ctx.halted = s.ctx.halted ∧ t.ctx.amPm = s.ctx.amPm) ∧
    (t.ctx.registerPointer ≠ s.ctx.registerPointer →
      s.callsFall ∧
      ((s.ctx.protocolState = .getRegNr ∧ s.ctx.bitCount = 7) ∨
        (s.ctx.protocolState = .writeRegs ∧ s.ctx.bitCount = 7) ∨
        (s.ctx.protocolState = .readAck ∧ s.ctx.dataLine = false))) ∧
    t.ctx.baselineRam = s.ctx.baselineRam ∧ t.ctx.baselineRegisters = s.ctx.baselineRegisters ∧
    t.ctx.baselineOffset = s.ctx.baselineOffset

/-- From a state of the invariant, a bus operation run with two different answers of the host clock
leaves the same Context and the same result, unless it queries the part in which they differ:
host_cs at a START, host_now at a START of a running clock, at a control write that halts or
resumes, and at the write of a time field of a running clock. The list of the queries is the spec's
own decision D12 (43_time_model.md section 1). -/
def Obligations.HostClockSeenOnlyWhenQueried : Prop :=
  ∀ (s : State) (code : Byte) (h h' : HostClock) (rest : List Input), s.Inv → s.live = true →
    code.toNat ≤ 4 → s.inputs = .bus code h :: rest →
    (s.queriesCs → h.cs = h'.cs) → (s.queriesNow → h.now = h'.now) →
    ∃ t, step s = .next t ∧
      step { s with inputs := .bus code h' :: rest } = .next { t with host := h' }

/-- A bus operation in IDLE that is not a START stays in IDLE and changes only the lines, and read_data
there returns 1. It is the spec's own inference from the source's list of transitions
(40_bus_protocol.md section 3) (40_bus_protocol.md section 3, 40_bus_protocol.md section 6). -/
def Obligations.OnlyStartLeavesIdle : Prop :=
  ∀ (s : State) (code : Byte), s.ctx.protocolState = .idle → s.calls code → ¬s.callsStart →
    ∃ t, step s = .next t ∧
      t.ctx = { s.ctx with clockLine := t.ctx.clockLine, dataLine := t.ctx.dataLine } ∧
      (code = 0x04#8 → t.result = some true ∧ t.ctx = s.ctx)

/-- From every live state of the invariant, whatever the lines and the protocol state are and whatever
the host clock answers, the four calls complete and end in IDLE with both lines 1. It is the spec's
own inference (70_reset_and_hazards.md section 1) (70_reset_and_hazards.md section 1). -/
def Obligations.LinesForcedIdle : Prop :=
  ∀ (s : State) (h₁ h₂ h₃ h₄ : HostClock), s.Inv → s.live = true →
    ∃ t, runTrace [(0x00#8, h₁), (0x02#8, h₂), (0x01#8, h₃), (0x03#8, h₄)] s = .next t ∧
      t.ctx.protocolState = .idle ∧ t.ctx.clockLine = true ∧ t.ctx.dataLine = true

/-- From a live state of the invariant in GET_ADDRESS, GET_REG_NR or WRITE_REGS with no bit in and the
clock low, the eight bit cells of any byte complete with that byte in shift_register and bit_count
8, out of the receive state. That the first sample is bit 7 is the source's; the shift form is the
spec's own decision D7 (30_encoding.md section 2, 40_bus_protocol.md section 2, 40_bus_protocol.md
section 3). -/
def Obligations.ReceivedByteIsAssembled : Prop :=
  ∀ (s : State) (v : Byte) (trace : List (Byte × HostClock)), s.Inv → s.live = true →
    s.ctx.protocolState ∈ [.getAddress, .getRegNr, .writeRegs] → s.ctx.bitCount = 0 →
    s.ctx.clockLine = false → trace.map Prod.fst = byteCells v →
    ∃ t, runTrace trace s = .next t ∧ t.ctx.shiftRegister = v ∧ t.ctx.bitCount = 8 ∧
      t.ctx.protocolState ∈ [.addressWriteAck, .addressReadAck, .idle, .regNrAck, .writeAck] ∧
      t.ctx.clockLine = false

/-- From a live state in READ_REGS at the start of a byte with the clock low, after k cells of clock
pulses, k below 8, read_data returns bit 7 - k of the loaded byte; after eight the acknowledge cell
is reached with the byte kept. The order of the bits is the spec's own decision D7 (20_memory.md
section 3, 40_bus_protocol.md section 5). -/
def Obligations.SentByteBitByBit : Prop :=
  ∀ (s : State) (k : Nat) (trace : List (Byte × HostClock)), s.live = true →
    s.ctx.protocolState = .readRegs → s.ctx.bitCount = 0 → s.ctx.clockLine = false →
    trace.map Prod.fst = (List.replicate k [0x01#8, 0x00#8]).flatten →
    (k < 8 → ∃ t, runTrace trace s = .next t ∧
      exec .r t = .next { t with result := some (s.ctx.shiftRegister.getLsbD (7 - k)) }) ∧
    (k = 8 → ∃ t, runTrace trace s = .next t ∧ t.ctx.protocolState = .readAck ∧
      t.ctx.shiftRegister = s.ctx.shiftRegister)

/-- From every live state of the invariant, whatever the host clock answers, START, 0xA0, a pointer byte
P and a data byte V, each with its acknowledge cell, complete in WRITE_REGS; with A = P mod
ADDR_SPACE the pointer is (A + 1) mod ADDR_SPACE, address A holds V if A is 0, 8..15 or RAM, and
every other stored byte is as before. It is the spec's own inference (42_register_write.md section
5); the reduction of P is its decision D10 (30_encoding.md section 8, 42_register_write.md section
5). -/
def Obligations.WriteTransaction : Prop :=
  ∀ (s : State) (p v : Byte) (trace : List (Byte × HostClock)), s.Inv → s.live = true →
    trace.map Prod.fst = startTrace ++ sendByte 0xA0#8 ++ sendByte p ++ sendByte v →
    ∃ t, runTrace trace s = .next t ∧ t.ctx.protocolState = .writeRegs ∧ t.ctx.bitCount = 0 ∧
      t.ctx.registerPointer.toNat = (p.toNat % s.addrSpace + 1) % s.addrSpace ∧
      ∀ a : Byte, a.toNat < s.addrSpace →
        t.storedByte a =
          if a.toNat = p.toNat % s.addrSpace ∧ (a.toNat = 0 ∨ 8 ≤ a.toNat) then v
          else s.storedByte a

/-- A call by which the persistence backend comes to hold an image, or none, under a device name
completes with no change but in what is stored: that name holds the image, every other name what it
held. That such a call stands for what another session stores is the model's choice of log entry 15
(44_host_lifecycle.md section 1). -/
def Obligations.StoredByName : Prop :=
  ∀ (s : State) (name : String) (image : Option Image) (rest : List Input),
    s.inputs = .persist name image :: rest →
    ∃ t, step s = .next t ∧ t = { s with inputs := rest, stored := t.stored } ∧
      ∀ n, Store.find t.stored n = if n = name then image else Store.find s.stored n
end

