-- ==== Sys2Proof/Laws/Memory.lean ====
section
/-! SUPPORT. The laws of byte arrays: reading after writing, the canonical form, equality and blocks. -/

namespace Sys2Proof.Machine

/-- An address below every listed one reads as an unlisted cell. -/
theorem Memory.read_of_all_lt (m : Memory) (k : Nat)
    (h : m.all (fun c => decide (k < c.1)) = true) : Memory.read m k = Memory.unlisted := by
  induction m with
  | nil => rfl
  | cons c m ih =>
    obtain ⟨a, b⟩ := c
    simp only [List.all_cons, Bool.and_eq_true, decide_eq_true_eq] at h
    rw [Memory.read, if_neg (by omega), ih h.2]

/-- What the canonical form says of a list's head and of its rest. -/
theorem Memory.wf_cons (a : Nat) (b : Byte) (m : Memory) :
    Memory.wf ((a, b) :: m) = true ↔
      b ≠ Memory.unlisted ∧ m.all (fun c => decide (a < c.1)) = true ∧ Memory.wf m = true := by
  simp [Memory.wf, and_assoc]

/-- A lower bound on the addresses may be lowered. -/
theorem Memory.all_lt_of_lt (m : Memory) (j k : Nat) (h : j ≤ k)
    (hm : m.all (fun c => decide (k < c.1)) = true) :
    m.all (fun c => decide (j < c.1)) = true := by
  rw [List.all_eq_true] at *
  intro c hc
  have := hm c hc
  simp only [decide_eq_true_eq] at *
  omega

/-- The byte written is the byte read. -/
theorem Memory.read_write_same (m : Memory) (k : Nat) (v : Byte) (h : Memory.wf m = true) :
    Memory.read (Memory.write m k v) k = v := by
  induction m with
  | nil => rw [Memory.write]; split <;> simp_all [Memory.read]
  | cons c m ih =>
    obtain ⟨a, b⟩ := c
    obtain ⟨hb, hlt, hm⟩ := (Memory.wf_cons a b m).1 h
    rw [Memory.write]
    split
    · split
      · rename_i hka hv
        rw [hv]
        apply Memory.read_of_all_lt
        simp only [List.all_cons, Bool.and_eq_true, decide_eq_true_eq]
        exact ⟨hka, Memory.all_lt_of_lt m k a (by omega) hlt⟩
      · simp [Memory.read]
    · split
      · split
        · rename_i hka hv
          rw [hv, Memory.read_of_all_lt m k (hka ▸ hlt)]
        · simp [Memory.read]
      · rw [Memory.read, if_neg (by omega), ih hm]

/-- A write leaves every other address alone. -/
theorem Memory.read_write_other (m : Memory) (j k : Nat) (v : Byte) (hjk : j ≠ k) :
    Memory.read (Memory.write m k v) j = Memory.read m j := by
  induction m with
  | nil => rw [Memory.write]; split <;> simp [Memory.read]; omega
  | cons c m ih =>
    obtain ⟨a, b⟩ := c
    rw [Memory.write]
    split
    · split
      · rfl
      · rw [Memory.read, if_neg (by omega)]
    · split
      · split
        · rw [Memory.read, if_neg (by omega)]
        · rw [Memory.read, if_neg (by omega), Memory.read, if_neg (by omega)]
      · rw [Memory.read, Memory.read, ih]

/-- Reading after a write, in one equation. -/
theorem Memory.read_write (m : Memory) (j k : Nat) (v : Byte) (h : Memory.wf m = true) :
    Memory.read (Memory.write m k v) j = if j = k then v else Memory.read m j := by
  split
  · subst j; exact Memory.read_write_same m k v h
  · exact Memory.read_write_other m j k v ‹_›

/-- A write keeps every property of the addresses that the written one has. -/
theorem Memory.all_write (m : Memory) (k : Nat) (v : Byte) (p : Nat → Bool) (hk : p k = true)
    (h : m.all (fun c => p c.1) = true) : (Memory.write m k v).all (fun c => p c.1) = true := by
  induction m with
  | nil => rw [Memory.write]; split <;> simp [hk]
  | cons c m ih =>
    obtain ⟨a, b⟩ := c
    simp only [List.all_cons, Bool.and_eq_true] at h
    obtain ⟨ha, hm⟩ := h
    rw [Memory.write]
    repeat' split
    all_goals try simp only [List.all_cons, Bool.and_eq_true]
    exacts [⟨ha, hm⟩, ⟨hk, ha, hm⟩, hm, ⟨hk, hm⟩, ⟨ha, ih hm⟩]

/-- A write keeps the canonical form. -/
theorem Memory.write_wf (m : Memory) (k : Nat) (v : Byte) (h : Memory.wf m = true) :
    Memory.wf (Memory.write m k v) = true := by
  induction m with
  | nil => rw [Memory.write]; split <;> simp_all [Memory.wf]
  | cons c m ih =>
    obtain ⟨a, b⟩ := c
    obtain ⟨hb, hlt, hm⟩ := (Memory.wf_cons a b m).1 h
    rw [Memory.write]
    split
    · split
      · exact h
      · rename_i hka hv
        refine (Memory.wf_cons _ _ _).2 ⟨hv, ?_, h⟩
        simp only [List.all_cons, Bool.and_eq_true, decide_eq_true_eq]
        exact ⟨hka, Memory.all_lt_of_lt m k a (by omega) hlt⟩
    · split
      · split
        · exact hm
        · rename_i hka hv
          exact (Memory.wf_cons _ _ _).2 ⟨hv, hka ▸ hlt, hm⟩
      · exact (Memory.wf_cons _ _ _).2
          ⟨hb, Memory.all_write m k v (fun x => decide (a < x)) (by simp; omega) hlt, ih hm⟩

/-- A write to an address of the array keeps the array within its size. -/
theorem Memory.write_below (n : Nat) (m : Memory) (k : Nat) (v : Byte) (hk : k < n)
    (h : Memory.below n m = true) : Memory.below n (Memory.write m k v) = true :=
  Memory.all_write m k v (fun x => decide (x < n)) (by simpa using hk) h

/-- A write keeps an array of `n` bytes in canonical form. -/
theorem Memory.write_ok (n : Nat) (m : Memory) (k : Nat) (v : Byte) (hk : k < n)
    (h : Memory.ok n m = true) : Memory.ok n (Memory.write m k v) = true := by
  rw [Memory.ok, Bool.and_eq_true] at *
  exact ⟨Memory.write_wf m k v h.1, Memory.write_below n m k v hk h.2⟩

/-- Beyond the size of the array every address is unlisted. -/
theorem Memory.read_of_below (n : Nat) (m : Memory) (k : Nat) (h : Memory.below n m = true)
    (hk : n ≤ k) : Memory.read m k = Memory.unlisted := by
  induction m with
  | nil => rfl
  | cons c m ih =>
    obtain ⟨a, b⟩ := c
    simp only [Memory.below, List.all_cons, Bool.and_eq_true, decide_eq_true_eq] at h
    rw [Memory.read, if_neg (by omega), ih h.2]

/-- Arrays in canonical form that read alike are equal. -/
theorem Memory.ext_of_read (m n : Memory) (hm : Memory.wf m = true) (hn : Memory.wf n = true)
    (h : ∀ k, Memory.read m k = Memory.read n k) : m = n := by
  induction m generalizing n with
  | nil =>
    cases n with
    | nil => rfl
    | cons d n =>
      obtain ⟨a, b⟩ := d
      have := h a
      simp only [Memory.read, if_true] at this
      exact absurd this.symm ((Memory.wf_cons a b n).1 hn).1
  | cons c m ih =>
    obtain ⟨a, b⟩ := c
    obtain ⟨hb, hlt, hm'⟩ := (Memory.wf_cons a b m).1 hm
    cases n with
    | nil =>
      have := h a
      simp only [Memory.read, if_true] at this
      exact absurd this hb
    | cons d n =>
      obtain ⟨a', b'⟩ := d
      obtain ⟨hb', hlt', hn'⟩ := (Memory.wf_cons a' b' n).1 hn
      have ha : a = a' := by
        rcases Nat.lt_trichotomy a a' with hl | he | hl
        · have := h a
          rw [Memory.read, if_pos rfl, Memory.read, if_neg (by omega),
            Memory.read_of_all_lt n a (Memory.all_lt_of_lt n a a' (by omega) hlt')] at this
          exact absurd this hb
        · exact he
        · have := h a'
          rw [Memory.read, if_neg (by omega), Memory.read, if_pos rfl,
            Memory.read_of_all_lt m a' (Memory.all_lt_of_lt m a' a (by omega) hlt)] at this
          exact absurd this.symm hb'
      subst ha
      have hbb : b = b' := by simpa [Memory.read] using h a
      subst hbb
      rw [ih n hm' hn' fun k => ?_]
      by_cases hk : a = k
      · subst hk
        rw [Memory.read_of_all_lt m a hlt, Memory.read_of_all_lt n a hlt']
      · simpa [Memory.read, hk] using h k

/-- Every address a block lists is at or above its first. -/
theorem Memory.ofBlock_all_lt (bs : List Byte) (j k : Nat) (h : j < k) :
    (Memory.ofBlock bs k).all (fun c => decide (j < c.1)) = true := by
  induction bs generalizing k with
  | nil => rfl
  | cons b bs ih =>
    rw [Memory.ofBlock]
    split
    · exact ih (k + 1) (by omega)
    · simp only [List.all_cons, Bool.and_eq_true, decide_eq_true_eq]
      exact ⟨h, ih (k + 1) (by omega)⟩

/-- A block of bytes gives an array in canonical form. -/
theorem Memory.ofBlock_wf (bs : List Byte) (k : Nat) : Memory.wf (Memory.ofBlock bs k) = true := by
  induction bs generalizing k with
  | nil => rfl
  | cons b bs ih =>
    rw [Memory.ofBlock]
    split
    · exact ih (k + 1)
    · exact (Memory.wf_cons _ _ _).2
        ⟨‹_›, Memory.ofBlock_all_lt bs k (k + 1) (by omega), ih (k + 1)⟩

/-- A block of bytes gives an array of as many bytes. -/
theorem Memory.ofBlock_below (bs : List Byte) (k n : Nat) (h : k + bs.length ≤ n) :
    Memory.below n (Memory.ofBlock bs k) = true := by
  induction bs generalizing k with
  | nil => rfl
  | cons b bs ih =>
    rw [List.length_cons] at h
    rw [Memory.ofBlock]
    split
    · exact ih (k + 1) (by omega)
    · simp only [Memory.below, List.all_cons, Bool.and_eq_true, decide_eq_true_eq]
      exact ⟨by omega, ih (k + 1) (by omega)⟩

/-- The byte a block gives to an address. -/
theorem Memory.read_ofBlock (bs : List Byte) (k i : Nat) :
    Memory.read (Memory.ofBlock bs k) (k + i) = bs.getD i Memory.unlisted := by
  induction bs generalizing k i with
  | nil => rfl
  | cons b bs ih =>
    rw [Memory.ofBlock]
    cases i with
    | zero =>
      split
      · rename_i hb
        rw [Memory.read_of_all_lt _ _ (Memory.ofBlock_all_lt bs _ _ (by omega))]
        simp [hb]
      · simp [Memory.read]
    | succ i =>
      have := ih (k + 1) i
      rw [show k + 1 + i = k + (i + 1) from by omega] at this
      split
      · simpa using this
      · rw [Memory.read, if_neg (by omega)]; simpa using this

/-- The arrays of the state after reset are in canonical form. -/
theorem reset_memory_wf :
    Memory.wf State.reset.ctx.ram = true ∧ Memory.wf State.reset.ctx.baselineRam = true := ⟨rfl, rfl⟩

/-- A block taken from an array has the size asked for. -/
@[simp] theorem Memory.toBlock_length (m : Memory) (k n : Nat) :
    (Memory.toBlock m k n).length = n := by
  induction n generalizing k with
  | zero => rfl
  | succ n ih => rw [Memory.toBlock, List.length_cons, ih]

/-- The byte at a place of a block taken from an array. -/
theorem Memory.getD_toBlock (m : Memory) (k n i : Nat) (h : i < n) :
    (Memory.toBlock m k n).getD i Memory.unlisted = Memory.read m (k + i) := by
  induction n generalizing k i with
  | zero => omega
  | succ n ih =>
    rw [Memory.toBlock]
    cases i with
    | zero => simp
    | succ i => simpa [show k + 1 + i = k + (i + 1) from by omega] using ih (k + 1) i (by omega)

/-- The array of the block of an array of `n` bytes is the array. -/
theorem Memory.ofBlock_toBlock (m : Memory) (n : Nat) (h : Memory.ok n m = true) :
    Memory.ofBlock (Memory.toBlock m 0 n) 0 = m := by
  simp only [Memory.ok, Bool.and_eq_true] at h
  refine Memory.ext_of_read _ _ (Memory.ofBlock_wf _ _) h.1 fun k => ?_
  have hr := Memory.read_ofBlock (Memory.toBlock m 0 n) 0 k
  rw [Nat.zero_add] at hr
  rw [hr]
  by_cases hk : k < n
  · rw [Memory.getD_toBlock _ _ _ _ hk, Nat.zero_add]
  · rw [Memory.read_of_below _ _ _ h.2 (by omega), List.getD_eq_getElem?_getD,
      List.getElem?_eq_none (by simp; omega)]
    rfl

/-- The register block of the bytes of a register block is the block. -/
@[simp] theorem RegisterBlock.ofBlock_toList (r : RegisterBlock) (h : r.toList.length = 16) :
    RegisterBlock.ofBlock r.toList h = r := by
  apply Vector.ext
  intro i hi
  simp [RegisterBlock.ofBlock]

end Sys2Proof.Machine
end

