-- ==== Sys2Proof/Laws/State.lean ====
section
/-! SUPPORT. One lemma per field of State for each of its updates, and what the parameters read as after
one. -/

namespace Sys2Proof.Machine

@[simp] theorem setClockLine_ctx (s : State) (x : Level) : (s.setClockLine x).ctx = { s.ctx with clockLine := x } := rfl
@[simp] theorem setClockLine_params (s : State) (x : Level) : (s.setClockLine x).params = s.params := rfl
@[simp] theorem setClockLine_live (s : State) (x : Level) : (s.setClockLine x).live = s.live := rfl
@[simp] theorem setClockLine_host (s : State) (x : Level) : (s.setClockLine x).host = s.host := rfl
@[simp] theorem setClockLine_result (s : State) (x : Level) : (s.setClockLine x).result = s.result := rfl
@[simp] theorem setClockLine_saveCall (s : State) (x : Level) : (s.setClockLine x).saveCall = s.saveCall := rfl
@[simp] theorem setClockLine_stored (s : State) (x : Level) : (s.setClockLine x).stored = s.stored := rfl
@[simp] theorem setClockLine_loadCall (s : State) (x : Level) : (s.setClockLine x).loadCall = s.loadCall := rfl
@[simp] theorem setClockLine_inputs (s : State) (x : Level) : (s.setClockLine x).inputs = s.inputs := rfl
@[simp] theorem setClockLine_addrSpace (s : State) (x : Level) : (s.setClockLine x).addrSpace = s.addrSpace := rfl
@[simp] theorem setClockLine_timeBackend (s : State) (x : Level) : (s.setClockLine x).timeBackend = s.timeBackend := rfl

@[simp] theorem setDataLine_ctx (s : State) (x : Level) : (s.setDataLine x).ctx = { s.ctx with dataLine := x } := rfl
@[simp] theorem setDataLine_params (s : State) (x : Level) : (s.setDataLine x).params = s.params := rfl
@[simp] theorem setDataLine_live (s : State) (x : Level) : (s.setDataLine x).live = s.live := rfl
@[simp] theorem setDataLine_host (s : State) (x : Level) : (s.setDataLine x).host = s.host := rfl
@[simp] theorem setDataLine_result (s : State) (x : Level) : (s.setDataLine x).result = s.result := rfl
@[simp] theorem setDataLine_saveCall (s : State) (x : Level) : (s.setDataLine x).saveCall = s.saveCall := rfl
@[simp] theorem setDataLine_stored (s : State) (x : Level) : (s.setDataLine x).stored = s.stored := rfl
@[simp] theorem setDataLine_loadCall (s : State) (x : Level) : (s.setDataLine x).loadCall = s.loadCall := rfl
@[simp] theorem setDataLine_inputs (s : State) (x : Level) : (s.setDataLine x).inputs = s.inputs := rfl
@[simp] theorem setDataLine_addrSpace (s : State) (x : Level) : (s.setDataLine x).addrSpace = s.addrSpace := rfl
@[simp] theorem setDataLine_timeBackend (s : State) (x : Level) : (s.setDataLine x).timeBackend = s.timeBackend := rfl

@[simp] theorem setProtocol_ctx (s : State) (x : ProtocolState) : (s.setProtocol x).ctx = { s.ctx with protocolState := x } := rfl
@[simp] theorem setProtocol_params (s : State) (x : ProtocolState) : (s.setProtocol x).params = s.params := rfl
@[simp] theorem setProtocol_live (s : State) (x : ProtocolState) : (s.setProtocol x).live = s.live := rfl
@[simp] theorem setProtocol_host (s : State) (x : ProtocolState) : (s.setProtocol x).host = s.host := rfl
@[simp] theorem setProtocol_result (s : State) (x : ProtocolState) : (s.setProtocol x).result = s.result := rfl
@[simp] theorem setProtocol_saveCall (s : State) (x : ProtocolState) : (s.setProtocol x).saveCall = s.saveCall := rfl
@[simp] theorem setProtocol_stored (s : State) (x : ProtocolState) : (s.setProtocol x).stored = s.stored := rfl
@[simp] theorem setProtocol_loadCall (s : State) (x : ProtocolState) : (s.setProtocol x).loadCall = s.loadCall := rfl
@[simp] theorem setProtocol_inputs (s : State) (x : ProtocolState) : (s.setProtocol x).inputs = s.inputs := rfl
@[simp] theorem setProtocol_addrSpace (s : State) (x : ProtocolState) : (s.setProtocol x).addrSpace = s.addrSpace := rfl
@[simp] theorem setProtocol_timeBackend (s : State) (x : ProtocolState) : (s.setProtocol x).timeBackend = s.timeBackend := rfl

@[simp] theorem setBitCount_ctx (s : State) (x : Nat) : (s.setBitCount x).ctx = { s.ctx with bitCount := x } := rfl
@[simp] theorem setBitCount_params (s : State) (x : Nat) : (s.setBitCount x).params = s.params := rfl
@[simp] theorem setBitCount_live (s : State) (x : Nat) : (s.setBitCount x).live = s.live := rfl
@[simp] theorem setBitCount_host (s : State) (x : Nat) : (s.setBitCount x).host = s.host := rfl
@[simp] theorem setBitCount_result (s : State) (x : Nat) : (s.setBitCount x).result = s.result := rfl
@[simp] theorem setBitCount_saveCall (s : State) (x : Nat) : (s.setBitCount x).saveCall = s.saveCall := rfl
@[simp] theorem setBitCount_stored (s : State) (x : Nat) : (s.setBitCount x).stored = s.stored := rfl
@[simp] theorem setBitCount_loadCall (s : State) (x : Nat) : (s.setBitCount x).loadCall = s.loadCall := rfl
@[simp] theorem setBitCount_inputs (s : State) (x : Nat) : (s.setBitCount x).inputs = s.inputs := rfl
@[simp] theorem setBitCount_addrSpace (s : State) (x : Nat) : (s.setBitCount x).addrSpace = s.addrSpace := rfl
@[simp] theorem setBitCount_timeBackend (s : State) (x : Nat) : (s.setBitCount x).timeBackend = s.timeBackend := rfl

@[simp] theorem setShiftRegister_ctx (s : State) (x : Byte) : (s.setShiftRegister x).ctx = { s.ctx with shiftRegister := x } := rfl
@[simp] theorem setShiftRegister_params (s : State) (x : Byte) : (s.setShiftRegister x).params = s.params := rfl
@[simp] theorem setShiftRegister_live (s : State) (x : Byte) : (s.setShiftRegister x).live = s.live := rfl
@[simp] theorem setShiftRegister_host (s : State) (x : Byte) : (s.setShiftRegister x).host = s.host := rfl
@[simp] theorem setShiftRegister_result (s : State) (x : Byte) : (s.setShiftRegister x).result = s.result := rfl
@[simp] theorem setShiftRegister_saveCall (s : State) (x : Byte) : (s.setShiftRegister x).saveCall = s.saveCall := rfl
@[simp] theorem setShiftRegister_stored (s : State) (x : Byte) : (s.setShiftRegister x).stored = s.stored := rfl
@[simp] theorem setShiftRegister_loadCall (s : State) (x : Byte) : (s.setShiftRegister x).loadCall = s.loadCall := rfl
@[simp] theorem setShiftRegister_inputs (s : State) (x : Byte) : (s.setShiftRegister x).inputs = s.inputs := rfl
@[simp] theorem setShiftRegister_addrSpace (s : State) (x : Byte) : (s.setShiftRegister x).addrSpace = s.addrSpace := rfl
@[simp] theorem setShiftRegister_timeBackend (s : State) (x : Byte) : (s.setShiftRegister x).timeBackend = s.timeBackend := rfl

@[simp] theorem setPointer_ctx (s : State) (x : Byte) : (s.setPointer x).ctx = { s.ctx with registerPointer := x } := rfl
@[simp] theorem setPointer_params (s : State) (x : Byte) : (s.setPointer x).params = s.params := rfl
@[simp] theorem setPointer_live (s : State) (x : Byte) : (s.setPointer x).live = s.live := rfl
@[simp] theorem setPointer_host (s : State) (x : Byte) : (s.setPointer x).host = s.host := rfl
@[simp] theorem setPointer_result (s : State) (x : Byte) : (s.setPointer x).result = s.result := rfl
@[simp] theorem setPointer_saveCall (s : State) (x : Byte) : (s.setPointer x).saveCall = s.saveCall := rfl
@[simp] theorem setPointer_stored (s : State) (x : Byte) : (s.setPointer x).stored = s.stored := rfl
@[simp] theorem setPointer_loadCall (s : State) (x : Byte) : (s.setPointer x).loadCall = s.loadCall := rfl
@[simp] theorem setPointer_inputs (s : State) (x : Byte) : (s.setPointer x).inputs = s.inputs := rfl
@[simp] theorem setPointer_addrSpace (s : State) (x : Byte) : (s.setPointer x).addrSpace = s.addrSpace := rfl
@[simp] theorem setPointer_timeBackend (s : State) (x : Byte) : (s.setPointer x).timeBackend = s.timeBackend := rfl

@[simp] theorem setSnapshot_ctx (s : State) (x : RegisterBlock) : (s.setSnapshot x).ctx = { s.ctx with readSnapshot := x } := rfl
@[simp] theorem setSnapshot_params (s : State) (x : RegisterBlock) : (s.setSnapshot x).params = s.params := rfl
@[simp] theorem setSnapshot_live (s : State) (x : RegisterBlock) : (s.setSnapshot x).live = s.live := rfl
@[simp] theorem setSnapshot_host (s : State) (x : RegisterBlock) : (s.setSnapshot x).host = s.host := rfl
@[simp] theorem setSnapshot_result (s : State) (x : RegisterBlock) : (s.setSnapshot x).result = s.result := rfl
@[simp] theorem setSnapshot_saveCall (s : State) (x : RegisterBlock) : (s.setSnapshot x).saveCall = s.saveCall := rfl
@[simp] theorem setSnapshot_stored (s : State) (x : RegisterBlock) : (s.setSnapshot x).stored = s.stored := rfl
@[simp] theorem setSnapshot_loadCall (s : State) (x : RegisterBlock) : (s.setSnapshot x).loadCall = s.loadCall := rfl
@[simp] theorem setSnapshot_inputs (s : State) (x : RegisterBlock) : (s.setSnapshot x).inputs = s.inputs := rfl
@[simp] theorem setSnapshot_addrSpace (s : State) (x : RegisterBlock) : (s.setSnapshot x).addrSpace = s.addrSpace := rfl
@[simp] theorem setSnapshot_timeBackend (s : State) (x : RegisterBlock) : (s.setSnapshot x).timeBackend = s.timeBackend := rfl

@[simp] theorem setRegister_ctx (s : State) (i : Fin 16) (x : Byte) : (s.setRegister i x).ctx = { s.ctx with registers := s.ctx.registers.set i x } := rfl
@[simp] theorem setRegister_params (s : State) (i : Fin 16) (x : Byte) : (s.setRegister i x).params = s.params := rfl
@[simp] theorem setRegister_live (s : State) (i : Fin 16) (x : Byte) : (s.setRegister i x).live = s.live := rfl
@[simp] theorem setRegister_host (s : State) (i : Fin 16) (x : Byte) : (s.setRegister i x).host = s.host := rfl
@[simp] theorem setRegister_result (s : State) (i : Fin 16) (x : Byte) : (s.setRegister i x).result = s.result := rfl
@[simp] theorem setRegister_saveCall (s : State) (i : Fin 16) (x : Byte) : (s.setRegister i x).saveCall = s.saveCall := rfl
@[simp] theorem setRegister_stored (s : State) (i : Fin 16) (x : Byte) : (s.setRegister i x).stored = s.stored := rfl
@[simp] theorem setRegister_loadCall (s : State) (i : Fin 16) (x : Byte) : (s.setRegister i x).loadCall = s.loadCall := rfl
@[simp] theorem setRegister_inputs (s : State) (i : Fin 16) (x : Byte) : (s.setRegister i x).inputs = s.inputs := rfl
@[simp] theorem setRegister_addrSpace (s : State) (i : Fin 16) (x : Byte) : (s.setRegister i x).addrSpace = s.addrSpace := rfl
@[simp] theorem setRegister_timeBackend (s : State) (i : Fin 16) (x : Byte) : (s.setRegister i x).timeBackend = s.timeBackend := rfl

@[simp] theorem setRam_ctx (s : State) (i : Nat) (x : Byte) : (s.setRam i x).ctx = { s.ctx with ram := Memory.write s.ctx.ram i x } := rfl
@[simp] theorem setRam_params (s : State) (i : Nat) (x : Byte) : (s.setRam i x).params = s.params := rfl
@[simp] theorem setRam_live (s : State) (i : Nat) (x : Byte) : (s.setRam i x).live = s.live := rfl
@[simp] theorem setRam_host (s : State) (i : Nat) (x : Byte) : (s.setRam i x).host = s.host := rfl
@[simp] theorem setRam_result (s : State) (i : Nat) (x : Byte) : (s.setRam i x).result = s.result := rfl
@[simp] theorem setRam_saveCall (s : State) (i : Nat) (x : Byte) : (s.setRam i x).saveCall = s.saveCall := rfl
@[simp] theorem setRam_stored (s : State) (i : Nat) (x : Byte) : (s.setRam i x).stored = s.stored := rfl
@[simp] theorem setRam_loadCall (s : State) (i : Nat) (x : Byte) : (s.setRam i x).loadCall = s.loadCall := rfl
@[simp] theorem setRam_inputs (s : State) (i : Nat) (x : Byte) : (s.setRam i x).inputs = s.inputs := rfl
@[simp] theorem setRam_addrSpace (s : State) (i : Nat) (x : Byte) : (s.setRam i x).addrSpace = s.addrSpace := rfl
@[simp] theorem setRam_timeBackend (s : State) (i : Nat) (x : Byte) : (s.setRam i x).timeBackend = s.timeBackend := rfl

@[simp] theorem setOffset_ctx (s : State) (x : Int) : (s.setOffset x).ctx = { s.ctx with offset := x } := rfl
@[simp] theorem setOffset_params (s : State) (x : Int) : (s.setOffset x).params = s.params := rfl
@[simp] theorem setOffset_live (s : State) (x : Int) : (s.setOffset x).live = s.live := rfl
@[simp] theorem setOffset_host (s : State) (x : Int) : (s.setOffset x).host = s.host := rfl
@[simp] theorem setOffset_result (s : State) (x : Int) : (s.setOffset x).result = s.result := rfl
@[simp] theorem setOffset_saveCall (s : State) (x : Int) : (s.setOffset x).saveCall = s.saveCall := rfl
@[simp] theorem setOffset_stored (s : State) (x : Int) : (s.setOffset x).stored = s.stored := rfl
@[simp] theorem setOffset_loadCall (s : State) (x : Int) : (s.setOffset x).loadCall = s.loadCall := rfl
@[simp] theorem setOffset_inputs (s : State) (x : Int) : (s.setOffset x).inputs = s.inputs := rfl
@[simp] theorem setOffset_addrSpace (s : State) (x : Int) : (s.setOffset x).addrSpace = s.addrSpace := rfl
@[simp] theorem setOffset_timeBackend (s : State) (x : Int) : (s.setOffset x).timeBackend = s.timeBackend := rfl

@[simp] theorem setHaltLatch_ctx (s : State) (x : Int) : (s.setHaltLatch x).ctx = { s.ctx with haltLatch := x } := rfl
@[simp] theorem setHaltLatch_params (s : State) (x : Int) : (s.setHaltLatch x).params = s.params := rfl
@[simp] theorem setHaltLatch_live (s : State) (x : Int) : (s.setHaltLatch x).live = s.live := rfl
@[simp] theorem setHaltLatch_host (s : State) (x : Int) : (s.setHaltLatch x).host = s.host := rfl
@[simp] theorem setHaltLatch_result (s : State) (x : Int) : (s.setHaltLatch x).result = s.result := rfl
@[simp] theorem setHaltLatch_saveCall (s : State) (x : Int) : (s.setHaltLatch x).saveCall = s.saveCall := rfl
@[simp] theorem setHaltLatch_stored (s : State) (x : Int) : (s.setHaltLatch x).stored = s.stored := rfl
@[simp] theorem setHaltLatch_loadCall (s : State) (x : Int) : (s.setHaltLatch x).loadCall = s.loadCall := rfl
@[simp] theorem setHaltLatch_inputs (s : State) (x : Int) : (s.setHaltLatch x).inputs = s.inputs := rfl
@[simp] theorem setHaltLatch_addrSpace (s : State) (x : Int) : (s.setHaltLatch x).addrSpace = s.addrSpace := rfl
@[simp] theorem setHaltLatch_timeBackend (s : State) (x : Int) : (s.setHaltLatch x).timeBackend = s.timeBackend := rfl

@[simp] theorem setHalted_ctx (s : State) (x : Bool) : (s.setHalted x).ctx = { s.ctx with halted := x } := rfl
@[simp] theorem setHalted_params (s : State) (x : Bool) : (s.setHalted x).params = s.params := rfl
@[simp] theorem setHalted_live (s : State) (x : Bool) : (s.setHalted x).live = s.live := rfl
@[simp] theorem setHalted_host (s : State) (x : Bool) : (s.setHalted x).host = s.host := rfl
@[simp] theorem setHalted_result (s : State) (x : Bool) : (s.setHalted x).result = s.result := rfl
@[simp] theorem setHalted_saveCall (s : State) (x : Bool) : (s.setHalted x).saveCall = s.saveCall := rfl
@[simp] theorem setHalted_stored (s : State) (x : Bool) : (s.setHalted x).stored = s.stored := rfl
@[simp] theorem setHalted_loadCall (s : State) (x : Bool) : (s.setHalted x).loadCall = s.loadCall := rfl
@[simp] theorem setHalted_inputs (s : State) (x : Bool) : (s.setHalted x).inputs = s.inputs := rfl
@[simp] theorem setHalted_addrSpace (s : State) (x : Bool) : (s.setHalted x).addrSpace = s.addrSpace := rfl
@[simp] theorem setHalted_timeBackend (s : State) (x : Bool) : (s.setHalted x).timeBackend = s.timeBackend := rfl

@[simp] theorem setAmPm_ctx (s : State) (x : Bool) : (s.setAmPm x).ctx = { s.ctx with amPm := x } := rfl
@[simp] theorem setAmPm_params (s : State) (x : Bool) : (s.setAmPm x).params = s.params := rfl
@[simp] theorem setAmPm_live (s : State) (x : Bool) : (s.setAmPm x).live = s.live := rfl
@[simp] theorem setAmPm_host (s : State) (x : Bool) : (s.setAmPm x).host = s.host := rfl
@[simp] theorem setAmPm_result (s : State) (x : Bool) : (s.setAmPm x).result = s.result := rfl
@[simp] theorem setAmPm_saveCall (s : State) (x : Bool) : (s.setAmPm x).saveCall = s.saveCall := rfl
@[simp] theorem setAmPm_stored (s : State) (x : Bool) : (s.setAmPm x).stored = s.stored := rfl
@[simp] theorem setAmPm_loadCall (s : State) (x : Bool) : (s.setAmPm x).loadCall = s.loadCall := rfl
@[simp] theorem setAmPm_inputs (s : State) (x : Bool) : (s.setAmPm x).inputs = s.inputs := rfl
@[simp] theorem setAmPm_addrSpace (s : State) (x : Bool) : (s.setAmPm x).addrSpace = s.addrSpace := rfl
@[simp] theorem setAmPm_timeBackend (s : State) (x : Bool) : (s.setAmPm x).timeBackend = s.timeBackend := rfl

@[simp] theorem setResult_result (s : State) (x : Level) : (s.setResult x).result = some x := rfl
@[simp] theorem setResult_ctx (s : State) (x : Level) : (s.setResult x).ctx = s.ctx := rfl
@[simp] theorem setResult_params (s : State) (x : Level) : (s.setResult x).params = s.params := rfl
@[simp] theorem setResult_live (s : State) (x : Level) : (s.setResult x).live = s.live := rfl
@[simp] theorem setResult_host (s : State) (x : Level) : (s.setResult x).host = s.host := rfl
@[simp] theorem setResult_saveCall (s : State) (x : Level) : (s.setResult x).saveCall = s.saveCall := rfl
@[simp] theorem setResult_stored (s : State) (x : Level) : (s.setResult x).stored = s.stored := rfl
@[simp] theorem setResult_loadCall (s : State) (x : Level) : (s.setResult x).loadCall = s.loadCall := rfl
@[simp] theorem setResult_inputs (s : State) (x : Level) : (s.setResult x).inputs = s.inputs := rfl
@[simp] theorem setResult_addrSpace (s : State) (x : Level) : (s.setResult x).addrSpace = s.addrSpace := rfl
@[simp] theorem setResult_timeBackend (s : State) (x : Level) : (s.setResult x).timeBackend = s.timeBackend := rfl

@[simp] theorem taken_inputs (s : State) (rest : List Input) (h : HostClock) :
    (s.taken rest h).inputs = rest := rfl
@[simp] theorem taken_host (s : State) (rest : List Input) (h : HostClock) :
    (s.taken rest h).host = h := rfl
@[simp] theorem taken_ctx (s : State) (rest : List Input) (h : HostClock) :
    (s.taken rest h).ctx = s.ctx := rfl
@[simp] theorem taken_params (s : State) (rest : List Input) (h : HostClock) :
    (s.taken rest h).params = s.params := rfl
@[simp] theorem taken_live (s : State) (rest : List Input) (h : HostClock) :
    (s.taken rest h).live = s.live := rfl
@[simp] theorem taken_result (s : State) (rest : List Input) (h : HostClock) :
    (s.taken rest h).result = s.result := rfl
@[simp] theorem taken_saveCall (s : State) (rest : List Input) (h : HostClock) :
    (s.taken rest h).saveCall = s.saveCall := rfl
@[simp] theorem taken_stored (s : State) (rest : List Input) (h : HostClock) :
    (s.taken rest h).stored = s.stored := rfl
@[simp] theorem taken_loadCall (s : State) (rest : List Input) (h : HostClock) :
    (s.taken rest h).loadCall = s.loadCall := rfl
@[simp] theorem taken_addrSpace (s : State) (rest : List Input) (h : HostClock) :
    (s.taken rest h).addrSpace = s.addrSpace := rfl
@[simp] theorem taken_timeBackend (s : State) (rest : List Input) (h : HostClock) :
    (s.taken rest h).timeBackend = s.timeBackend := rfl

@[simp] theorem persisted_ctx (s : State) (k : String) (g : Option Image) :
    (s.persisted k g).ctx = s.ctx := rfl
@[simp] theorem persisted_params (s : State) (k : String) (g : Option Image) :
    (s.persisted k g).params = s.params := rfl
@[simp] theorem persisted_live (s : State) (k : String) (g : Option Image) :
    (s.persisted k g).live = s.live := rfl
@[simp] theorem persisted_host (s : State) (k : String) (g : Option Image) :
    (s.persisted k g).host = s.host := rfl
@[simp] theorem persisted_result (s : State) (k : String) (g : Option Image) :
    (s.persisted k g).result = s.result := rfl
@[simp] theorem persisted_stored (s : State) (k : String) (g : Option Image) :
    (s.persisted k g).stored = Store.put s.stored k g := rfl
@[simp] theorem persisted_loadCall (s : State) (k : String) (g : Option Image) :
    (s.persisted k g).loadCall = s.loadCall := rfl
@[simp] theorem persisted_saveCall (s : State) (k : String) (g : Option Image) :
    (s.persisted k g).saveCall = s.saveCall := rfl
@[simp] theorem persisted_inputs (s : State) (k : String) (g : Option Image) :
    (s.persisted k g).inputs = s.inputs := rfl

@[simp] theorem created_ctx (s : State) (p : Params) (m : Memory) (r : RegisterBlock) (o : Int) :
    (s.created p m r o).ctx = Context.initial m r o := rfl
@[simp] theorem created_params (s : State) (p : Params) (m : Memory) (r : RegisterBlock) (o : Int) :
    (s.created p m r o).params = p := rfl
@[simp] theorem created_live (s : State) (p : Params) (m : Memory) (r : RegisterBlock) (o : Int) :
    (s.created p m r o).live = true := rfl
@[simp] theorem created_host (s : State) (p : Params) (m : Memory) (r : RegisterBlock) (o : Int) :
    (s.created p m r o).host = s.host := rfl
@[simp] theorem created_result (s : State) (p : Params) (m : Memory) (r : RegisterBlock) (o : Int) :
    (s.created p m r o).result = s.result := rfl
@[simp] theorem created_stored (s : State) (p : Params) (m : Memory) (r : RegisterBlock) (o : Int) :
    (s.created p m r o).stored = s.stored := rfl
@[simp] theorem created_loadCall (s : State) (p : Params) (m : Memory) (r : RegisterBlock) (o : Int) :
    (s.created p m r o).loadCall = some p.loadArguments := rfl
@[simp] theorem created_saveCall (s : State) (p : Params) (m : Memory) (r : RegisterBlock) (o : Int) :
    (s.created p m r o).saveCall = s.saveCall := rfl
@[simp] theorem created_inputs (s : State) (p : Params) (m : Memory) (r : RegisterBlock) (o : Int) :
    (s.created p m r o).inputs = s.inputs := rfl

@[simp] theorem saved_ctx (s : State) :
    (s.saved).ctx = s.ctx := rfl
@[simp] theorem saved_params (s : State) :
    (s.saved).params = s.params := rfl
@[simp] theorem saved_live (s : State) :
    (s.saved).live = s.live := rfl
@[simp] theorem saved_host (s : State) :
    (s.saved).host = s.host := rfl
@[simp] theorem saved_result (s : State) :
    (s.saved).result = s.result := rfl
@[simp] theorem saved_stored (s : State) :
    (s.saved).stored = s.stored.save s.saveArguments := rfl
@[simp] theorem saved_loadCall (s : State) :
    (s.saved).loadCall = s.loadCall := rfl
@[simp] theorem saved_saveCall (s : State) :
    (s.saved).saveCall = some s.saveArguments := rfl
@[simp] theorem saved_inputs (s : State) :
    (s.saved).inputs = s.inputs := rfl

@[simp] theorem ended_ctx (s : State) :
    (s.ended).ctx = s.ctx := rfl
@[simp] theorem ended_params (s : State) :
    (s.ended).params = s.params := rfl
@[simp] theorem ended_live (s : State) :
    (s.ended).live = false := rfl
@[simp] theorem ended_host (s : State) :
    (s.ended).host = s.host := rfl
@[simp] theorem ended_result (s : State) :
    (s.ended).result = s.result := rfl
@[simp] theorem ended_stored (s : State) :
    (s.ended).stored = s.stored := rfl
@[simp] theorem ended_loadCall (s : State) :
    (s.ended).loadCall = s.loadCall := rfl
@[simp] theorem ended_saveCall (s : State) :
    (s.ended).saveCall = s.saveCall := rfl
@[simp] theorem ended_inputs (s : State) :
    (s.ended).inputs = s.inputs := rfl

end Sys2Proof.Machine
end

