-- ==== Sys2Proof/Laws/Ops.lean ====
section
/-! SUPPORT. For each shared operation, what it can do, once: sequencing, the shift logic, the pointer, the
time model and the register bank. -/

namespace Sys2Proof.Machine

/-! ### Sequencing and the shift logic -/

/-- Two operations in a row answer a next state through the first one's. -/
theorem andThen_eq_next (r : Result) (f : State → Result) (t : State) :
    andThen r f = .next t ↔ ∃ u, r = .next u ∧ f u = .next t := by
  cases r <;> simp [andThen]

@[simp] theorem andThen_next (s : State) (f : State → Result) : andThen (.next s) f = f s := rfl

/-- `shift_register` after a bit is shifted in, as a number modulo 256. -/
theorem shiftIn_value (s : State) :
    (s.ctx.shiftRegister <<< 1) ||| (if s.ctx.dataLine then 1#8 else 0#8) = s.shifted := by
  unfold State.shifted
  generalize s.ctx.shiftRegister = x
  cases s.ctx.dataLine <;> (revert x; decide)

/-- What shifting a bit in leaves. -/
theorem shiftIn_eq (s : State) :
    s.shiftIn = (s.setShiftRegister s.shifted).setBitCount (s.ctx.bitCount + 1) := by
  rw [State.shiftIn, shiftIn_value]

/-! ### The pointer -/

/-- The committed pointer lies in the address space. -/
theorem commitPointer_toNat (s : State) :
    s.commitPointer.ctx.registerPointer.toNat = s.ctx.shiftRegister.toNat % s.addrSpace := by
  simp only [State.commitPointer, setPointer_ctx, BitVec.toNat_ofNat]
  exact Nat.mod_eq_of_lt (by
    have := Nat.mod_le s.ctx.shiftRegister.toNat s.addrSpace
    have := s.ctx.shiftRegister.isLt
    omega)

/-- The incremented pointer wraps at the end of the address space. -/
theorem incrementPointer_toNat (s : State) (h0 : 0 < s.addrSpace) (h : s.addrSpace ≤ 256) :
    s.incrementPointer.ctx.registerPointer.toNat =
      (s.ctx.registerPointer.toNat + 1) % s.addrSpace := by
  simp only [State.incrementPointer, setPointer_ctx, BitVec.toNat_ofNat]
  exact Nat.mod_eq_of_lt (by
    have := Nat.mod_lt (s.ctx.registerPointer.toNat + 1) h0
    omega)

/-! ### The time model -/

/-- A field write moves the virtual time to what the backend answers for it. -/
theorem applyField_eq (s : State) (f : Field) (v : Byte) (b : Bool) :
    s.applyField f v b = s.withTime (s.timeBackend.setLatched f v b s.virtualNow) := by
  unfold State.applyField State.withTime State.virtualNow
  split <;> rename_i h
  · rfl
  · simp [TimeBackend.setOffset, State.runningTime]

/-- The virtual time after it was moved. -/
@[simp] theorem withTime_virtualNow (s : State) (t : Int) : (s.withTime t).virtualNow = t := by
  unfold State.withTime
  cases h : s.ctx.halted
  · simp [State.virtualNow, h, State.runningTime, getLatch]; omega
  · simp [State.virtualNow, h]

/-- The virtual time moved twice is moved once. -/
@[simp] theorem withTime_withTime (s : State) (t u : Int) : (s.withTime t).withTime u = s.withTime u := by
  have h := withTime_virtualNow s t
  revert h
  unfold State.withTime
  cases hh : s.ctx.halted <;>
    simp [hh, State.setHaltLatch, State.setOffset, State.virtualNow, State.runningTime, getLatch]
  omega

@[simp] theorem withTime_params (s : State) (t : Int) : (s.withTime t).params = s.params := by
  unfold State.withTime; split <;> rfl
@[simp] theorem withTime_timeBackend (s : State) (t : Int) :
    (s.withTime t).timeBackend = s.timeBackend := by
  rw [State.timeBackend, withTime_params]; rfl
@[simp] theorem withTime_host (s : State) (t : Int) : (s.withTime t).host = s.host := by
  unfold State.withTime; split <;> rfl
@[simp] theorem withTime_halted (s : State) (t : Int) : (s.withTime t).ctx.halted = s.ctx.halted := by
  unfold State.withTime; split <;> rfl
@[simp] theorem withTime_amPm (s : State) (t : Int) : (s.withTime t).ctx.amPm = s.ctx.amPm := by
  unfold State.withTime; split <;> rfl
@[simp] theorem withTime_shiftRegister (s : State) (t : Int) :
    (s.withTime t).ctx.shiftRegister = s.ctx.shiftRegister := by
  unfold State.withTime; split <;> rfl
@[simp] theorem withTime_registers (s : State) (t : Int) :
    (s.withTime t).ctx.registers = s.ctx.registers := by
  unfold State.withTime; split <;> rfl

/-- The offset after a resume, in the short form of the formula. -/
theorem resume_offset (s : State) : s.resume.ctx.offset = s.ctx.haltLatch - s.host.now := by
  simp [State.resume]; omega

/-! ### The register bank -/

/-- A bank write is the row of its address. -/
theorem bankWrite_eq_exec (a : Byte) (s : State) : bankWrite a s = exec (decodeWaddr a) s := by
  simp only [bankWrite, decodeWaddr, apply_ite (exec · s)]
  rfl

/-- A bank read is the row of its address. -/
theorem bankRead_eq_exec (a : Byte) (s : State) : bankRead a s = exec (decodeRaddr a) s := by
  simp only [bankRead, decodeRaddr, apply_ite (exec · s)]
  rfl

/-- The rows of the RAM ranges carry their address. -/
theorem ramAddress_bits (a : Byte) :
    (a &&& 0xF0#8 = 0x10#8 → 1#4 ++ a.extractLsb' 0 4 = a) ∧
    (a &&& 0xE0#8 = 0x20#8 → 1#3 ++ a.extractLsb' 0 5 = a) ∧
    (a &&& 0xC0#8 = 0x40#8 → 1#2 ++ a.extractLsb' 0 6 = a) ∧
    (128 ≤ a.toNat → 1#1 ++ a.extractLsb' 0 7 = a) := by
  revert a; decide

/-- An address that no earlier row takes lies in the last RAM range. -/
theorem lastRange (a : Byte) (h0 : 16 ≤ a.toNat) (h1 : ¬a &&& 0xF0#8 = 0x10#8)
    (h2 : ¬a &&& 0xE0#8 = 0x20#8) (h3 : ¬a &&& 0xC0#8 = 0x40#8) : 128 ≤ a.toNat := by
  revert a; decide

/-- A bank read of a RAM address is the load of its RAM byte. -/
theorem bankRead_ram (a : Byte) (s : State) (h : 16 ≤ a.toNat) : bankRead a s = loadRam a s := by
  obtain ⟨h1, h2, h3, h4⟩ := ramAddress_bits a
  unfold bankRead
  repeat rw [if_neg (by rintro rfl; simp at h)]
  split
  · rw [execRRam16To31, h1 ‹_›]
  · split
    · rw [execRRam32To63, h2 ‹_›]
    · split
      · rw [execRRam64To127, h3 ‹_›]
      · rw [execRRam128To255, h4 (lastRange a h ‹_› ‹_› ‹_›)]

/-- A bank write of a RAM address is the store of its RAM byte. -/
theorem bankWrite_ram (a : Byte) (s : State) (h : 16 ≤ a.toNat) : bankWrite a s = storeRam a s := by
  obtain ⟨h1, h2, h3, h4⟩ := ramAddress_bits a
  unfold bankWrite
  repeat rw [if_neg (by rintro rfl; simp at h)]
  split
  · rw [execWRam16To31, h1 ‹_›]
  · split
    · rw [execWRam32To63, h2 ‹_›]
    · split
      · rw [execWRam64To127, h3 ‹_›]
      · rw [execWRam128To255, h4 (lastRange a h ‹_› ‹_› ‹_›)]

/-- A bank read inside the address space loads the byte at the address and changes nothing else. -/
theorem bankRead_eq (a : Byte) (s : State) (h : a.toNat < s.addrSpace) :
    bankRead a s = .next (s.setShiftRegister (s.bankByte a)) := by
  by_cases ha : a.toNat < 16
  · rw [State.bankByte, dif_pos ha]
    obtain ⟨n, rfl⟩ : ∃ n : Fin 16, a = BitVec.ofNat 8 n.val :=
      ⟨⟨a.toNat, ha⟩, by simp⟩
    revert ha h
    fin_cases n <;> intros <;> rfl
  · rw [bankRead_ram a s (by omega), loadRam, if_pos h, State.bankByte, dif_neg ha]
    rfl

/-- What a control write does, by the halt flag and bit 7 of the written byte. -/
theorem execWControl_cases (s t : State) (h : execWControl s = .next t) :
    (haltRequest s.ctx.shiftRegister = true ∧ s.ctx.halted = false ∧
      t = s.halt.setRegister 0 s.ctx.shiftRegister) ∨
    (haltRequest s.ctx.shiftRegister = false ∧ s.ctx.halted = true ∧
      t = s.resume.setRegister 0 s.ctx.shiftRegister) ∨
    (haltRequest s.ctx.shiftRegister = s.ctx.halted ∧ t = s.setRegister 0 s.ctx.shiftRegister) := by
  simp only [execWControl, Host.Outcome.next.injEq] at h
  subst h
  cases haltRequest s.ctx.shiftRegister <;> cases s.ctx.halted <;> simp

/-- A move of the virtual time changes the bank and the time model alone. -/
theorem withTime_withBank (s : State) (t : Int) : s.withTime t = s.withBank (s.withTime t) := by
  unfold State.withTime; split <;> rfl

end Sys2Proof.Machine
end

