-- ==== Sys2Proof/Laws/Bank.lean ====
section
/-! SUPPORT. What a bank write can do, once, and what each row of the protocol machine can do. -/

namespace Sys2Proof.Machine

/-- What a bank write of `shift_register` at an address leaves. -/
structure BankWritten (a : Byte) (s t : State) : Prop where
  /-- Nothing changes beside the bank and the time model. -/
  frame : t = s.withBank t
  /-- The RAM byte is written at a RAM address and at no other. -/
  ram : t.ctx.ram =
    if 16 ≤ a.toNat then Memory.write s.ctx.ram (a.toNat - 16) s.ctx.shiftRegister else s.ctx.ram
  /-- The register slot is written at the addresses 0 and 8 to 15 and at no other. -/
  registers : t.ctx.registers =
    if h : a.toNat = 0 ∨ (8 ≤ a.toNat ∧ a.toNat ≤ 15) then
      s.ctx.registers.set a.toNat s.ctx.shiftRegister
    else s.ctx.registers
  /-- The 12-hour flag is written at address 4 and at no other. -/
  amPm : t.ctx.amPm = if a.toNat = 4 then hourMode s.ctx.shiftRegister else s.ctx.amPm
  /-- The halt flag is written at address 0 and at no other. -/
  halted : t.ctx.halted = if a.toNat = 0 then haltRequest s.ctx.shiftRegister else s.ctx.halted
  /-- The time moves at the addresses 0 and 2 to 6 only. -/
  time : (a.toNat = 1 ∨ 7 ≤ a.toNat) →
    t.ctx.offset = s.ctx.offset ∧ t.ctx.haltLatch = s.ctx.haltLatch

theorem withTime_ram (s : State) (t : Int) : (s.withTime t).ctx.ram = s.ctx.ram := by
  unfold State.withTime; split <;> rfl

/-- A field write, or two in a row, as a bank write. -/
theorem bankWritten_withTime (a : Byte) (s : State) (t : Int) (h : 2 ≤ a.toNat) (h' : a.toNat ≤ 6)
    (h4 : a.toNat ≠ 4) : BankWritten a s (s.withTime t) where
  frame := withTime_withBank s t
  ram := by rw [withTime_ram, if_neg (by omega)]
  registers := by rw [withTime_registers, dif_neg (by omega)]
  amPm := by rw [withTime_amPm, if_neg h4]
  halted := by rw [withTime_halted, if_neg (by omega)]
  time := by omega

/-- A control write as a bank write. -/
theorem bankWritten_control (s t : State) (h : execWControl s = .next t) :
    BankWritten 0x00#8 s t := by
  rcases execWControl_cases s t h with ⟨h1, -, rfl⟩ | ⟨h1, -, rfl⟩ | ⟨h1, rfl⟩
  · exact ⟨rfl, rfl, rfl, rfl, by simp [State.halt, h1], by simp⟩
  · exact ⟨rfl, rfl, rfl, rfl, by simp [State.resume, h1], by simp⟩
  · exact ⟨rfl, rfl, rfl, rfl, by simp [h1], by simp⟩

/-- An hour write as a bank write. -/
theorem bankWritten_hours (s : State) (t : Int) :
    BankWritten 0x04#8 s ((s.setAmPm (hourMode s.ctx.shiftRegister)).withTime t) where
  frame := by unfold State.withTime; split <;> rfl
  ram := by rw [withTime_ram]; rfl
  registers := by rw [withTime_registers]; rfl
  amPm := by rw [withTime_amPm]; rfl
  halted := by rw [withTime_halted]; rfl
  time := by simp

/-- A bank write inside the address space completes, and what it leaves. -/
theorem bankWrite_spec (a : Byte) (s : State) (h : a.toNat < s.addrSpace) :
    ∃ t, bankWrite a s = .next t ∧ BankWritten a s t := by
  by_cases ha : a.toNat < 16
  · obtain ⟨n, rfl⟩ : ∃ n : Fin 16, a = BitVec.ofNat 8 n.val := ⟨⟨a.toNat, ha⟩, by simp⟩
    clear h ha
    fin_cases n
    · exact ⟨_, rfl, bankWritten_control s _ rfl⟩
    · exact ⟨_, rfl, rfl, rfl, rfl, rfl, rfl, fun _ => ⟨rfl, rfl⟩⟩
    · refine ⟨_, rfl, ?_⟩
      rw [applyField_eq]
      exact bankWritten_withTime _ _ _ (by decide) (by decide) (by decide)
    · refine ⟨_, rfl, ?_⟩
      rw [applyField_eq]
      exact bankWritten_withTime _ _ _ (by decide) (by decide) (by decide)
    · refine ⟨_, rfl, ?_⟩
      rw [applyField_eq, applyField_eq, ← apply_ite]
      exact bankWritten_hours s _
    · refine ⟨_, rfl, ?_⟩
      rw [applyField_eq, applyField_eq, withTime_withTime]
      exact bankWritten_withTime _ _ _ (by decide) (by decide) (by decide)
    · refine ⟨_, rfl, ?_⟩
      rw [applyField_eq, applyField_eq, withTime_withTime]
      exact bankWritten_withTime _ _ _ (by decide) (by decide) (by decide)
    · exact ⟨_, rfl, rfl, rfl, rfl, rfl, rfl, fun _ => ⟨rfl, rfl⟩⟩
    all_goals exact ⟨_, rfl, rfl, rfl, rfl, rfl, rfl, fun _ => ⟨rfl, rfl⟩⟩
  · refine ⟨s.setRam (a.toNat - 16) s.ctx.shiftRegister, ?_, rfl, ?_, ?_, ?_, ?_, ?_⟩
    · rw [bankWrite_ram a s (by omega), storeRam, if_pos h]; rfl
    · rw [if_pos (by omega)]; rfl
    · rw [dif_neg (by omega)]; rfl
    · rw [if_neg (by omega)]; rfl
    · rw [if_neg (by omega)]; rfl
    · exact fun _ => ⟨rfl, rfl⟩

/-- A bank write that answers a next state is one inside the address space, or at a register. -/
theorem bankWrite_inSpace (a : Byte) (s t : State) (h : bankWrite a s = .next t) :
    a.toNat < 16 ∨ a.toNat < s.addrSpace := by
  by_cases ha : a.toNat < 16
  · exact .inl ha
  · rw [bankWrite_ram a s (by omega), storeRam] at h
    split at h
    · exact .inr ‹_›
    · cases h

end Sys2Proof.Machine
end

