-- ==== Sys2Proof/Laws/Edges.lean ====
section
/-! SUPPORT. What each falling clock edge does, once: before the eighth bit of a byte and at it. -/

namespace Sys2Proof.Machine

/-- Before the eighth bit the byte is not done. -/
theorem shiftIn_byteDone_early (s : State) (h : s.ctx.bitCount ≠ 7) : s.shiftIn.byteDone = false := by
  have : s.shiftIn.byteDone = (s.ctx.bitCount + 1 == 8) := rfl
  rw [this, beq_eq_false_iff_ne]; omega

/-- At the eighth bit the byte is done. -/
theorem shiftIn_byteDone_eighth (s : State) (h : s.ctx.bitCount = 7) : s.shiftIn.byteDone = true := by
  have : s.shiftIn.byteDone = (s.ctx.bitCount + 1 == 8) := rfl
  rw [this, h]; rfl

/-- A falling clock edge is the row of the protocol state. -/
theorem fallingEdge_eq_row (s : State) : fallingEdge s = exec s.ctx.protocolState.row s := by
  unfold fallingEdge; cases s.ctx.protocolState <;> rfl

/-- The comparison of the address byte is its row. -/
theorem selectAddress_eq_exec (s : State) :
    selectAddress s = exec (decodeAddr s.ctx.shiftRegister) s := by
  simp only [selectAddress, decodeAddr, apply_ite (exec · s)]; rfl

/-- The comparison of the address byte changes only the protocol state. -/
theorem selectAddress_spec (s : State) :
    selectAddress s = .next (s.setProtocol
      (if s.ctx.shiftRegister = 0xA0#8 then .addressWriteAck
        else if s.ctx.shiftRegister = 0xA1#8 then .addressReadAck else .idle)) := by
  unfold selectAddress Config.slaW Config.slaR
  dsimp only
  split
  · rfl
  · split <;> rfl

theorem execFallGetAddress_early (s : State) (h : s.ctx.bitCount ≠ 7) :
    execFallGetAddress s = .next s.shiftIn := by
  simp only [execFallGetAddress, shiftIn_byteDone_early s h]; rfl

theorem execFallGetAddress_eighth (s : State) (h : s.ctx.bitCount = 7) :
    execFallGetAddress s = selectAddress s.shiftIn := by
  simp only [execFallGetAddress, shiftIn_byteDone_eighth s h]; rfl

theorem execFallGetRegNr_early (s : State) (h : s.ctx.bitCount ≠ 7) :
    execFallGetRegNr s = .next s.shiftIn := by
  simp only [execFallGetRegNr, shiftIn_byteDone_early s h]; rfl

theorem execFallGetRegNr_eighth (s : State) (h : s.ctx.bitCount = 7) :
    execFallGetRegNr s = .next (s.shiftIn.commitPointer.setProtocol .regNrAck) := by
  simp only [execFallGetRegNr, shiftIn_byteDone_eighth s h]; rfl

theorem execFallWriteRegs_early (s : State) (h : s.ctx.bitCount ≠ 7) :
    execFallWriteRegs s = .next s.shiftIn := by
  simp only [execFallWriteRegs, shiftIn_byteDone_early s h]; rfl

theorem execFallWriteRegs_eighth (s : State) (h : s.ctx.bitCount = 7) :
    execFallWriteRegs s =
      andThen (bankWrite s.ctx.registerPointer s.shiftIn) fun t =>
        .next (t.incrementPointer.setProtocol .writeAck) := by
  simp only [execFallWriteRegs, shiftIn_byteDone_eighth s h]; rfl

theorem execFallReadRegs_early (s : State) (h : s.ctx.bitCount ≠ 7) :
    execFallReadRegs s = .next (s.setBitCount (s.ctx.bitCount + 1)) := by
  have : (s.setBitCount (s.ctx.bitCount + 1)).byteDone = false := shiftIn_byteDone_early s h
  simp only [execFallReadRegs, this]; rfl

theorem execFallReadRegs_eighth (s : State) (h : s.ctx.bitCount = 7) :
    execFallReadRegs s = .next ((s.setBitCount 8).setProtocol .readAck) := by
  simp only [execFallReadRegs, h]; rfl

theorem execFallReadAck_nack (s : State) (h : s.ctx.dataLine = true) :
    execFallReadAck s = .next s.abort := by
  simp only [execFallReadAck, h, if_true]

theorem execFallReadAck_ack (s : State) (h : s.ctx.dataLine = false) (h0 : 0 < s.addrSpace)
    (h1 : s.addrSpace ≤ 256) :
    execFallReadAck s = .next
      (((s.incrementPointer.setShiftRegister
        (s.bankByte s.incrementPointer.ctx.registerPointer)).setBitCount 0).setProtocol .readRegs) := by
  have hp : s.incrementPointer.ctx.registerPointer.toNat < s.incrementPointer.addrSpace := by
    rw [incrementPointer_toNat s h0 h1]; exact Nat.mod_lt _ h0
  simp only [execFallReadAck, h]
  rw [if_neg (by decide), bankRead_eq _ _ hp]
  rfl

theorem execFallAddressReadAck_spec (s : State) (h : s.ctx.registerPointer.toNat < s.addrSpace) :
    execFallAddressReadAck s = .next
      (((s.setShiftRegister (s.bankByte s.ctx.registerPointer)).setBitCount 0).setProtocol .readRegs) := by
  simp only [execFallAddressReadAck]
  rw [bankRead_eq _ _ h]; rfl

end Sys2Proof.Machine
end

