-- ==== Sys2Proof/Laws/Time.lean ====
section
/-! SUPPORT. What the contract of the time backend gives for the snapshot and for the operands of a field
write. -/

namespace Sys2Proof.Machine

/-- The time backend of every instance meets the contract. -/
theorem timeBackend_conforms (s : State) : s.timeBackend.Conforms := s.params.backend.conforming.conforms

/-- The field that is replaced has the new number. -/
@[simp] theorem TimeBackend.numberWith_same (tb : TimeBackend) (f : Field) (n : Nat) (t : Int) :
    tb.numberWith f n t f = n := if_pos rfl

/-- The other fields have the number they had. -/
@[simp] theorem TimeBackend.numberWith_other (tb : TimeBackend) (f g : Field) (n : Nat) (t : Int)
    (h : g ≠ f) : tb.numberWith f n t g = tb.number g t := if_neg h

/-- A getter in the BCD mode gives the BCD of the field's number. -/
theorem TimeBackend.Conforms.get_bcd {tb : TimeBackend} (h : tb.Conforms)
    (f : Field) (t : Int) (hf : f ∈ Field.dateAndTime) : tb.get f t true = bcd (tb.number f t) := by
  rw [h.get_encodes]
  simp only [Field.dateAndTime, List.mem_cons, List.not_mem_nil, or_false] at hf
  rcases hf with rfl | rfl | rfl | rfl | rfl | rfl <;> rfl

/-- The hour register of an hour of the day in 12-hour form: mode flag, PM mark, BCD 12-hour value. -/
theorem hourRegister12_encode (h : Nat) (hh : h < 24) :
    hourRegister12 (encodeHourAmPm h true) =
      0x80#8 ||| (if 12 ≤ h then 0x40#8 else 0#8) ||| bcd (hour12 h) := by
  revert h; decide

/-- The operand of a write of the canonical hour byte is the backend's format of that hour. -/
theorem hourOperand_canonical (h : Nat) (hh : h < 24) :
    (hourOperand12 (hourRegister12 (encodeHourAmPm h true)) = encodeHourAmPm h true ∧
      hourMode (hourRegister12 (encodeHourAmPm h true)) = true) ∧
    (hourOperand24 (bcd h) = bcd h ∧ hourMode (bcd h) = false) := by
  revert h; decide

/-- The packed operands as numbers. -/
theorem packedOperands_toNat (v : Byte) :
    (dayOperand v).toNat = v.toNat % 64 ∧ (v >>> 6).toNat = v.toNat / 64 ∧
      (monthOperand v).toNat = v.toNat % 32 ∧
      (weekdayOperand v).toNat = (v.toNat / 32 + 6) % 7 := by
  revert v; decide +kernel

/-- The hour operands as numbers. -/
theorem hourOperands_toNat (v : Byte) :
    (128 ≤ v.toNat → v.getLsbD 7 = true ∧
      (hourOperand12 v).toNat = v.toNat % 32 + 32 * (v.toNat / 64 % 2)) ∧
    (v.toNat < 128 → v.getLsbD 7 = false ∧ (hourOperand24 v).toNat = v.toNat % 64) := by
  revert v; decide +kernel

/-- Register 5 as a number. -/
theorem packYearDate_toNat (d : Nat) (y : Byte) (h : d < 32) :
    (packYearDate (bcd d) y).toNat = (bcd d).toNat + 64 * (y.toNat % 4) := by
  revert y; revert d; decide +kernel

/-- Register 6 as a number. -/
theorem packWeekdayMonth_toNat (m : Nat) (w : Byte) (h : m < 13) (hw : w.toNat < 7) :
    (packWeekdayMonth (bcd m) w).toNat = (bcd m).toNat + 32 * (w.toNat + 1) := by
  revert w; revert m; decide +kernel

/-- The BCD of a number below 13 fits the month field, of one below 32 the day field. -/
theorem bcd_fits : (∀ n, n < 13 → (bcd n).toNat < 32) ∧ (∀ n, n < 32 → (bcd n).toNat < 64) := by
  decide

/-- The computed bytes of the snapshot by the numbers of the virtual time. -/
theorem snapshot_bytes (s : State) :
    s.snapshot[1] = bcd s.host.cs ∧
    s.snapshot[2] = bcd (s.timeBackend.number .second s.virtualNow) ∧
    s.snapshot[3] = bcd (s.timeBackend.number .minute s.virtualNow) ∧
    s.snapshot[4] =
      (if s.ctx.amPm then
        0x80#8 ||| (if 12 ≤ s.timeBackend.number .hour s.virtualNow then 0x40#8 else 0#8) |||
          bcd (hour12 (s.timeBackend.number .hour s.virtualNow))
      else bcd (s.timeBackend.number .hour s.virtualNow)) ∧
    s.snapshot[5].toNat =
      (bcd (s.timeBackend.number .dayOfMonth s.virtualNow)).toNat +
        64 * (s.timeBackend.number .year s.virtualNow % 4) ∧
    s.snapshot[6].toNat =
      (bcd (s.timeBackend.number .month s.virtualNow)).toNat +
        32 * (s.timeBackend.number .weekday s.virtualNow + 1) := by
  have hc := timeBackend_conforms s
  have hr := fun f => hc.number_inRange f s.virtualNow
  refine ⟨rfl, hc.get_bcd .second _ (by decide), hc.get_bcd .minute _ (by decide), ?_, ?_, ?_⟩
  · show s.snapshotHours _ = _
    unfold State.snapshotHours
    split
    · rw [hc.get_encodes]
      have hh : s.timeBackend.number .hour s.virtualNow < 24 := by
        simpa [Field.inRange] using hr .hour
      exact hourRegister12_encode _ hh
    · exact hc.get_bcd .hour _ (by decide)
  · show (packYearDate _ _).toNat = _
    rw [hc.get_bcd .dayOfMonth _ (by decide)]
    have hd := hr .dayOfMonth
    simp only [Field.inRange, Bool.and_eq_true, decide_eq_true_eq] at hd
    exact packYearDate_toNat _ _ (by omega)
  · show (packWeekdayMonth _ _).toNat = _
    rw [hc.get_bcd .month _ (by decide)]
    have hm := hr .month
    simp only [Field.inRange, Bool.and_eq_true, decide_eq_true_eq] at hm
    have hw : s.timeBackend.number .weekday s.virtualNow < 7 := by
      simpa [Field.inRange] using hr .weekday
    exact packWeekdayMonth_toNat _ _ (by omega) hw

end Sys2Proof.Machine
end

