-- ==== Sys2Proof/Laws/Eras.lean ====
section
/-! SUPPORT. The contract of the time backend fixes no era: the calendar of `TB_ref` with its years counted
from another base meets it too. -/

namespace Sys2Proof.Machine

/-- `TB_ref` with `k` added to the year number: the calendar of another era (`k` = 543: the Buddhist one). -/
def eraBackend (k : Int) : TimeBackend where
  get f t b :=
    if f = .year then encodeNumber ((referenceYear t + k) % 100).toNat b else referenceBackend.get f t b
  setLatched f v b t :=
    if f = .year then
      recompose ((referenceYear t + k) / 100 * 100 - k + decodeNumber v b) (dateOf t).month (dateOf t).day
        (secondOfDay t)
    else referenceSetField f v b t

/-- `get_year` of the era is its year number modulo 100. -/
theorem eraBackend_year (k t : Int) : ((eraBackend k).number .year t : Int) = (referenceYear t + k) % 100 := by
  show (((encodeNumber ((referenceYear t + k) % 100).toNat false).toNat : Nat) : Int) = _
  simp only [encodeNumber, Bool.false_eq_true, if_false, BitVec.toNat_ofNat]
  omega

/-- The other fields are those of `TB_ref`. -/
theorem eraBackend_number (k : Int) (f : Field) (t : Int) (h : f ≠ .year) :
    (eraBackend k).number f t = (fieldOf f t).toNat := by
  rw [← referenceBackend_number]
  cases f <;> first | rfl | exact absurd rfl h

/-- The setters of the other fields are those of `TB_ref`. -/
theorem eraBackend_setLatched (k : Int) (f : Field) (v : Byte) (b : Bool) (t : Int) (h : f ≠ .year) :
    (eraBackend k).setLatched f v b t = referenceSetField f v b t := if_neg h

/-- Two times lie in one century of the era if and only if the year numbers of the era do. -/
theorem eraBackend_sameCentury (k t t' : Int) :
    (eraBackend k).SameCentury t t' ↔ (referenceYear t' + k) / 100 = (referenceYear t + k) / 100 := by
  refine (eraBackend k).sameCentury_iff (fun t => referenceYear t + k) (eraBackend_year k) (fun t => ?_) t t'
  have := referenceYear_step t
  omega

/-- A time whose date and second of the day are those of `t` but for one field has the numbers of `t` but
for that field. -/
theorem eraBackend_replaces (k : Int) (f : Field) (n : Nat) (t t' : Int)
    (h : ∀ g ∈ Field.dateAndTime, g ≠ .year → fieldOf g t' = if g = f then (n : Int) else fieldOf g t)
    (hy : (referenceYear t' + k) % 100 = if Field.year = f then (n : Int) else (referenceYear t + k) % 100) :
    (eraBackend k).Replaces Field.dateAndTime f n t t' := by
  intro g hg
  by_cases hgy : g = .year
  · subst hgy
    have h1 := eraBackend_year k t
    have h2 := eraBackend_year k t'
    unfold TimeBackend.numberWith
    split at hy <;> simp_all
    omega
  · rw [TimeBackend.numberWith, eraBackend_number _ _ _ hgy, eraBackend_number _ _ _ hgy, h g hg hgy]
    split <;> simp

/-- A date that exists in the era is the date of some time of `TB_ref`. -/
theorem eraBackend_dateExists (k : Int) (f : Field) (n : Nat) (t : Int)
    (hf : f ∈ [Field.dayOfMonth, .month, .year]) (h : (eraBackend k).DateExists f n t) :
    ∃ t₀, (dateOf t₀).day = (if f = .dayOfMonth then (n : Int) else (dateOf t).day) ∧
      (dateOf t₀).month = (if f = .month then (n : Int) else (dateOf t).month) ∧
      (dateOf t₀).year =
        if f = .year then (referenceYear t + k) / 100 * 100 - k + n else (dateOf t).year := by
  obtain ⟨t₀, hc, hr⟩ := h
  rw [eraBackend_sameCentury] at hc
  have hd := hr .dayOfMonth (by decide)
  have hm := hr .month (by decide)
  have hy := hr .year (by decide)
  have h1 := eraBackend_year k t
  have h2 := eraBackend_year k t₀
  obtain ⟨a1, a2, a3, a4⟩ := civilFromDays_ranges (daysOf t)
  obtain ⟨b1, b2, b3, b4⟩ := civilFromDays_ranges (daysOf t₀)
  simp only [TimeBackend.numberWith, eraBackend_number k _ _ (by decide : Field.dayOfMonth ≠ .year),
    eraBackend_number k _ _ (by decide : Field.month ≠ .year), fieldOf, dateOf] at hd hm
  refine ⟨t₀, ?_⟩
  simp only [List.mem_cons, List.not_mem_nil, or_false] at hf
  rcases hf with rfl | rfl | rfl <;>
    simp only [TimeBackend.numberWith, reduceCtorEq, if_true, if_false, referenceYear, dateOf] at * <;>
    omega

/-- The setters of the day, the month and the year of the era reach a date that exists. -/
theorem eraBackend_set (k : Int) (f : Field) (n : Nat) (b : Bool) (t : Int)
    (hf : f ∈ [Field.dayOfMonth, .month, .year]) (hn : f.inRange n = true)
    (h : (eraBackend k).DateExists f n t) :
    (eraBackend k).Replaces Field.dateAndTime f n t ((eraBackend k).setLatched f (f.encode n b) b t) ∧
    (eraBackend k).SameCentury t ((eraBackend k).setLatched f (f.encode n b) b t) := by
  obtain ⟨t₀, hd, hm, hy⟩ := eraBackend_dateExists k f n t hf h
  have e := decodeNumber_encodeNumber n b (inRange_lt f n hn)
  have hs : 0 ≤ secondOfDay t ∧ secondOfDay t < 86400 := by simp only [secondOfDay]; omega
  have key : (eraBackend k).setLatched f (f.encode n b) b t = daysOf t₀ * 86400 + secondOfDay t := by
    simp only [List.mem_cons, List.not_mem_nil, or_false] at hf
    rcases hf with rfl | rfl | rfl
    · rw [eraBackend_setLatched _ _ _ _ _ (by decide)]
      refine referenceSetField_date .dayOfMonth n b t t₀ (by decide) hn ?_ fun g hg => ?_
      · rw [referenceYear, referenceYear, hy]; rfl
      · fin_cases hg <;> simp [fieldOf, hd, hm, hy]
    · rw [eraBackend_setLatched _ _ _ _ _ (by decide)]
      simp only [referenceSetField, Field.encode, e, reduceCtorEq, if_true, if_false] at *
      exact recompose_of_date _ _ _ _ _ hy hm hd
    · simp only [eraBackend, Field.encode, e, reduceCtorEq, if_true, if_false] at *
      exact recompose_of_date _ _ _ _ _ hy hm hd
  obtain ⟨p1, p2⟩ := fields_of_parts (daysOf t₀) (secondOfDay t) hs.1 hs.2
  have hdate : dateOf (daysOf t₀ * 86400 + secondOfDay t) = dateOf t₀ := by rw [dateOf, p1, dateOf]
  rw [key, eraBackend_sameCentury]
  refine ⟨eraBackend_replaces k f n t _ (fun g hg hgy => ?_) ?_, ?_⟩
  · simp only [List.mem_cons, List.not_mem_nil, or_false] at hf
    fin_cases hg <;> rcases hf with rfl | rfl | rfl <;> simp_all [fieldOf]
  · rw [referenceYear, hdate, hy]
    rcases eq_or_ne f .year with rfl | hne
    · simp only [Field.inRange, decide_eq_true_eq] at hn
      simp only [if_true]
      omega
    · rw [if_neg hne, if_neg hne.symm, referenceYear]
  · rw [referenceYear, hdate, hy]
    rcases eq_or_ne f .year with rfl | hne
    · simp only [Field.inRange, decide_eq_true_eq] at hn
      simp only [if_true]
      omega
    · rw [if_neg hne, referenceYear]

/-- The calendar of every era meets the contract. -/
theorem eraBackend_conforms (k : Int) : (eraBackend k).Conforms where
  get_encodes f t b := by
    by_cases h : f = .year
    · subst h
      have hy := eraBackend_year k t
      show encodeNumber ((referenceYear t + k) % 100).toNat b = encodeNumber _ b
      rw [← hy]; rfl
    · rw [eraBackend_number k f t h]
      exact if_neg h
  number_inRange f t := by
    by_cases h : f = .year
    · subst h
      have hy := eraBackend_year k t
      simp only [Field.inRange, decide_eq_true_eq]
      omega
    · rw [eraBackend_number k f t h]; exact (fieldOf_inRange f t).2
  set_current f b t := by
    by_cases h : f = .year
    · subst h
      have e : ∀ m : Int, 0 ≤ m → m < 100 → ((decodeNumber (encodeNumber m.toNat b) b : Nat) : Int) = m := by
        intro m h0 h1
        rw [decodeNumber_encodeNumber _ _ (by omega)]
        omega
      simp only [eraBackend, if_true, e ((referenceYear t + k) % 100) (by omega) (by omega)]
      rw [recompose_of_date (daysOf t) _ (dateOf t).month (dateOf t).day _ ?_ rfl rfl]
      · simp only [daysOf, secondOfDay]; omega
      · show referenceYear t = _
        omega
    · rw [eraBackend_setLatched _ _ _ _ _ h]
      have : (eraBackend k).get f t b = referenceBackend.get f t b := if_neg h
      rw [this]
      exact referenceSetField_current f b t
  set_timeOfDay f n b t hf hn := by
    have hne : f ≠ .year := by rintro rfl; simp at hf
    obtain ⟨hd, h⟩ := referenceSetField_timeOfDay f n b t hf hn
    rw [eraBackend_setLatched _ _ _ _ _ hne]
    refine eraBackend_replaces k _ n t _ (fun g hg _ => h g hg) ?_
    have hb : Field.year ≠ f.base := by fin_cases hf <;> decide
    rw [if_neg hb, referenceYear, referenceYear, dateOf, hd, dateOf]
  set_date f n b t hf hn h := (eraBackend_set k f n b t hf hn h).1
  set_year_century n b t hn h := (eraBackend_set k .year n b t (by decide) hn h).2
  set_weekday n b t hn _ := by
    obtain ⟨h1, h2, h3, h4⟩ := referenceSetField_weekday n b t (by simpa [Field.inRange] using hn)
    rw [eraBackend_setLatched _ _ _ _ _ (by decide)]
    refine ⟨?_, fun g hg => ?_, h3, h4⟩
    · rw [eraBackend_number _ _ _ (by decide), h1]; simp
    · have hne : g ≠ .year := by rintro rfl; simp at hg
      rw [eraBackend_number _ _ _ hne, eraBackend_number _ _ _ hne]
      fin_cases hg <;> simp only [fieldOf, h2]

end Sys2Proof.Machine
end

