-- ==== Sys2Proof/Laws/Events.lean ====
section
/-! SUPPORT. What a falling clock edge and a bus operation can do, once. -/

namespace Sys2Proof.Machine

/-- What a bus operation leaves alone whatever it is. -/
structure OutsideKept (s t : State) : Prop where
  params : t.params = s.params
  live : t.live = s.live
  host : t.host = s.host
  stored : t.stored = s.stored
  loadCall : t.loadCall = s.loadCall
  saveCall : t.saveCall = s.saveCall
  inputs : t.inputs = s.inputs
  baselineRam : t.ctx.baselineRam = s.ctx.baselineRam
  baselineRegisters : t.ctx.baselineRegisters = s.ctx.baselineRegisters
  baselineOffset : t.ctx.baselineOffset = s.ctx.baselineOffset

/-- What a falling clock edge does to a state of the invariant. -/
structure EdgeDone (s t : State) : Prop where
  outside : OutsideKept s t
  result : t.result = s.result
  snapshot : t.ctx.readSnapshot = s.ctx.readSnapshot
  clockLine : t.ctx.clockLine = s.ctx.clockLine
  dataLine : t.ctx.dataLine = s.ctx.dataLine
  /-- The bank and the time model are written at the eighth edge of a written byte and at no other. -/
  bank : ¬(s.ctx.protocolState = .writeRegs ∧ s.ctx.bitCount = 7) → s = s.withBank t
  /-- The pointer stays in the address space. -/
  inSpace : t.ctx.registerPointer.toNat < s.addrSpace
  /-- The pointer moves at the eighth edge of a pointer byte or of a written byte, or at an acknowledge. -/
  pointer : t.ctx.registerPointer ≠ s.ctx.registerPointer →
    (s.ctx.protocolState = .getRegNr ∧ s.ctx.bitCount = 7) ∨
      (s.ctx.protocolState = .writeRegs ∧ s.ctx.bitCount = 7) ∨
      (s.ctx.protocolState = .readAck ∧ s.ctx.dataLine = false)
  /-- `bit_count` fits the new protocol state. -/
  bitCount : t.ctx.protocolState.allowsBitCount t.ctx.bitCount = true
  /-- RAM keeps its form. -/
  ram : Memory.ok s.params.ramSize t.ctx.ram = true
  /-- Slots 1 to 7 are not written. -/
  timeSlots : ∀ i : Fin 16, 1 ≤ i.val → i.val ≤ 7 → t.ctx.registers[i] = s.ctx.registers[i]

/-- The address space has 17 to 256 addresses. -/
theorem State.Inv.addrSpace_bounds {s : State} (h : s.Inv) : 0 < s.addrSpace ∧ s.addrSpace ≤ 256 := by
  have := h.ramSize
  unfold State.addrSpace Config.regSize
  omega

/-- The state with the four registers of the protocol machine replaced. -/
def State.withScratch (s : State) (p v : Byte) (n : Nat) (q : ProtocolState) : State :=
  { s with
    ctx := { s.ctx with registerPointer := p, shiftRegister := v, bitCount := n, protocolState := q } }

/-- An edge that changes only the registers of the protocol machine. -/
theorem edgeDone_withScratch (s : State) (p v : Byte) (n : Nat) (q : ProtocolState) (hs : s.Inv)
    (hq : q.allowsBitCount n = true) (hp : p.toNat < s.addrSpace)
    (hw : p ≠ s.ctx.registerPointer →
      (s.ctx.protocolState = .getRegNr ∧ s.ctx.bitCount = 7) ∨
      (s.ctx.protocolState = .readAck ∧ s.ctx.dataLine = false)) :
    EdgeDone s (s.withScratch p v n q) where
  outside := ⟨rfl, rfl, rfl, rfl, rfl, rfl, rfl, rfl, rfl, rfl⟩
  result := rfl
  snapshot := rfl
  clockLine := rfl
  dataLine := rfl
  bank := fun _ => rfl
  inSpace := hp
  pointer := fun h => (hw h).imp_right .inr
  bitCount := hq
  ram := hs.ram
  timeSlots := fun _ _ _ => rfl

/-- An edge that leaves the bank and the pointer alone. -/
theorem edgeDone_of_protocol (s : State) (q : ProtocolState) (n : Nat) (v : Byte) (hs : s.Inv)
    (hq : q.allowsBitCount n = true) :
    EdgeDone s (((s.setShiftRegister v).setBitCount n).setProtocol q) :=
  edgeDone_withScratch s s.ctx.registerPointer v n q hs hq hs.pointer fun h => absurd rfl h

/-- An edge that moves the pointer and leaves the bank alone. -/
theorem edgeDone_of_pointer (s : State) (q : ProtocolState) (n : Nat) (v p : Byte) (hs : s.Inv)
    (hq : q.allowsBitCount n = true) (hp : p.toNat < s.addrSpace)
    (hw : (s.ctx.protocolState = .getRegNr ∧ s.ctx.bitCount = 7) ∨
      (s.ctx.protocolState = .readAck ∧ s.ctx.dataLine = false)) :
    EdgeDone s ((((s.setPointer p).setShiftRegister v).setBitCount n).setProtocol q) :=
  edgeDone_withScratch s p v n q hs hq hp fun _ => hw

/-- The shift logic reset, with the bit counter last. -/
theorem resetShift_eq (s : State) : s.resetShift = (s.setShiftRegister 0#8).setBitCount 0 := rfl

/-- What the invariant says of `bit_count` while a byte is in progress. -/
theorem State.Inv.bitCount_lt {s : State} (hs : s.Inv)
    (hq : s.ctx.protocolState ∈ [.getAddress, .getRegNr, .writeRegs, .readRegs]) :
    s.ctx.bitCount < 8 := by
  have hb := hs.bitCount
  simp only [List.mem_cons, List.not_mem_nil, or_false] at hq
  rcases hq with hq | hq | hq | hq <;> rw [hq] at hb <;>
    simpa [ProtocolState.allowsBitCount] using hb

/-- One more bit of a byte that is not complete. -/
theorem edgeDone_early (s : State) (v : Byte) (hs : s.Inv) (h7 : s.ctx.bitCount ≠ 7)
    (hq : s.ctx.protocolState ∈ [.getAddress, .getRegNr, .writeRegs, .readRegs]) :
    EdgeDone s ((s.setShiftRegister v).setBitCount (s.ctx.bitCount + 1)) := by
  have hlt := hs.bitCount_lt hq
  have := edgeDone_of_protocol s s.ctx.protocolState (s.ctx.bitCount + 1) v hs (by
    simp only [List.mem_cons, List.not_mem_nil, or_false] at hq
    rcases hq with hq | hq | hq | hq <;> rw [hq] <;> simp [ProtocolState.allowsBitCount] <;> omega)
  exact this

/-- The edge in GET_ADDRESS. -/
theorem execFallGetAddress_spec (s : State) (hs : s.Inv) (hq : s.ctx.protocolState = .getAddress) :
    ∃ t, execFallGetAddress s = .next t ∧ EdgeDone s t := by
  by_cases h7 : s.ctx.bitCount = 7
  · refine ⟨_, (execFallGetAddress_eighth s h7).trans (selectAddress_spec _), ?_⟩
    rw [shiftIn_eq, h7]
    refine edgeDone_of_protocol s _ 8 _ hs ?_
    split
    · rfl
    · split <;> rfl
  · refine ⟨_, execFallGetAddress_early s h7, ?_⟩
    rw [shiftIn_eq]
    exact edgeDone_early s _ hs h7 (by simp [hq])

/-- The edge in GET_REG_NR. -/
theorem execFallGetRegNr_spec (s : State) (hs : s.Inv) (hq : s.ctx.protocolState = .getRegNr) :
    ∃ t, execFallGetRegNr s = .next t ∧ EdgeDone s t := by
  by_cases h7 : s.ctx.bitCount = 7
  · refine ⟨_, execFallGetRegNr_eighth s h7, ?_⟩
    rw [shiftIn_eq, h7]
    refine edgeDone_of_pointer s .regNrAck 8 s.shifted
      (((s.setShiftRegister s.shifted).setBitCount 8).commitPointer.ctx.registerPointer) hs rfl ?_
      (.inl ⟨hq, h7⟩)
    rw [commitPointer_toNat]
    exact Nat.mod_lt _ hs.addrSpace_bounds.1
  · refine ⟨_, execFallGetRegNr_early s h7, ?_⟩
    rw [shiftIn_eq]
    exact edgeDone_early s _ hs h7 (by simp [hq])

/-- The edge in READ_REGS. -/
theorem execFallReadRegs_spec (s : State) (hs : s.Inv) (hq : s.ctx.protocolState = .readRegs) :
    ∃ t, execFallReadRegs s = .next t ∧ EdgeDone s t := by
  by_cases h7 : s.ctx.bitCount = 7
  · exact ⟨_, execFallReadRegs_eighth s h7,
      edgeDone_of_protocol s .readAck 8 s.ctx.shiftRegister hs rfl⟩
  · exact ⟨_, execFallReadRegs_early s h7,
      edgeDone_early s s.ctx.shiftRegister hs h7 (by simp [hq])⟩

/-- The edge in READ_ACK. -/
theorem execFallReadAck_spec (s : State) (hs : s.Inv) (hq : s.ctx.protocolState = .readAck) :
    ∃ t, execFallReadAck s = .next t ∧ EdgeDone s t := by
  obtain ⟨h0, h1⟩ := hs.addrSpace_bounds
  cases hd : s.ctx.dataLine with
  | true =>
    have hb := hs.bitCount
    rw [hq] at hb
    refine ⟨_, execFallReadAck_nack s hd,
      edgeDone_of_protocol s .idle s.ctx.bitCount s.ctx.shiftRegister hs ?_⟩
    simp only [ProtocolState.allowsBitCount, beq_iff_eq] at hb
    rw [hb]; rfl
  | false =>
    refine ⟨_, execFallReadAck_ack s hd h0 h1,
      edgeDone_of_pointer s .readRegs 0 _ s.incrementPointer.ctx.registerPointer hs rfl ?_
        (.inr ⟨hq, hd⟩)⟩
    rw [incrementPointer_toNat s h0 h1]
    exact Nat.mod_lt _ h0

/-- The eighth edge of a written byte, after the bank write. -/
theorem edgeDone_written (s u : State) (hs : s.Inv) (hq : s.ctx.protocolState = .writeRegs)
    (h7 : s.ctx.bitCount = 7)
    (hw : BankWritten s.ctx.registerPointer ((s.setShiftRegister s.shifted).setBitCount 8) u) :
    EdgeDone s (u.incrementPointer.setProtocol .writeAck) := by
  obtain ⟨h0, h1⟩ := hs.addrSpace_bounds
  obtain ⟨hf, hram, hreg, -, -, -⟩ := hw
  have hsp : u.addrSpace = s.addrSpace := by rw [hf]; rfl
  refine ⟨?_, ?_, ?_, ?_, ?_, fun h => absurd ⟨hq, h7⟩ h, ?_, fun _ => .inr (.inl ⟨hq, h7⟩), ?_, ?_, ?_⟩
  · rw [hf]; exact ⟨rfl, rfl, rfl, rfl, rfl, rfl, rfl, rfl, rfl, rfl⟩
  · rw [hf]; rfl
  · rw [hf]; rfl
  · rw [hf]; rfl
  · rw [hf]; rfl
  · show u.incrementPointer.ctx.registerPointer.toNat < _
    rw [incrementPointer_toNat u (by omega) (by omega), hsp]
    exact Nat.mod_lt _ h0
  · rw [hf]; rfl
  · show Memory.ok _ u.ctx.ram = true
    rw [hram]
    split
    · have hp : s.ctx.registerPointer.toNat < s.addrSpace := hs.pointer
      have hsz : s.addrSpace = 16 + s.params.ramSize := rfl
      exact Memory.write_ok _ _ _ _ (by omega) hs.ram
    · exact hs.ram
  · intro i hi1 hi7
    show u.ctx.registers[i] = _
    rw [hreg]
    split
    · exact Vector.getElem_set_ne _ i.isLt (by omega)
    · rfl

/-- The edge in WRITE_REGS. -/
theorem execFallWriteRegs_spec (s : State) (hs : s.Inv) (hq : s.ctx.protocolState = .writeRegs) :
    ∃ t, execFallWriteRegs s = .next t ∧ EdgeDone s t := by
  by_cases h7 : s.ctx.bitCount = 7
  · obtain ⟨u, hu, hw⟩ := bankWrite_spec s.ctx.registerPointer
      ((s.setShiftRegister s.shifted).setBitCount 8) hs.pointer
    refine ⟨_, ?_, edgeDone_written s u hs hq h7 hw⟩
    rw [execFallWriteRegs_eighth s h7, shiftIn_eq, h7, hu, andThen_next]
  · refine ⟨_, execFallWriteRegs_early s h7, ?_⟩
    rw [shiftIn_eq]
    exact edgeDone_early s _ hs h7 (by simp [hq])

/-- A falling clock edge in a state of the invariant completes, and what it does. -/
theorem fallingEdge_spec (s : State) (hs : s.Inv) : ∃ t, fallingEdge s = .next t ∧ EdgeDone s t := by
  have hb := hs.bitCount
  unfold fallingEdge
  cases hq : s.ctx.protocolState
  case idle =>
    exact ⟨s, rfl, edgeDone_of_protocol s s.ctx.protocolState s.ctx.bitCount s.ctx.shiftRegister hs hb⟩
  case startWait =>
    rw [hq] at hb
    refine ⟨_, rfl, edgeDone_of_protocol s .getAddress s.ctx.bitCount s.ctx.shiftRegister hs ?_⟩
    simp only [ProtocolState.allowsBitCount, beq_iff_eq] at hb
    rw [hb]; rfl
  case getAddress => exact execFallGetAddress_spec s hs hq
  case addressWriteAck =>
    refine ⟨s.resetShift.setProtocol .getRegNr, rfl, ?_⟩
    rw [resetShift_eq]; exact edgeDone_of_protocol s .getRegNr 0 _ hs rfl
  case addressReadAck =>
    exact ⟨_, execFallAddressReadAck_spec s hs.pointer, edgeDone_of_protocol s .readRegs 0 _ hs rfl⟩
  case getRegNr => exact execFallGetRegNr_spec s hs hq
  case regNrAck =>
    refine ⟨s.resetShift.setProtocol .writeRegs, rfl, ?_⟩
    rw [resetShift_eq]; exact edgeDone_of_protocol s .writeRegs 0 _ hs rfl
  case readRegs => exact execFallReadRegs_spec s hs hq
  case readAck => exact execFallReadAck_spec s hs hq
  case writeRegs => exact execFallWriteRegs_spec s hs hq
  case writeAck =>
    refine ⟨s.resetShift.setProtocol .writeRegs, rfl, ?_⟩
    rw [resetShift_eq]; exact edgeDone_of_protocol s .writeRegs 0 _ hs rfl

end Sys2Proof.Machine
end

