-- ==== Sys2Proof/Laws/PerInstr.lean ====
section
/-! SUPPORT. One lemma per constructor of Instr: its pattern fits the width of its format (R106). -/

namespace Sys2Proof.Laws

/-- The pattern of the instruction has no bit above the width of its format. -/
def FitsFormat.Statement (i : Instr) : Prop := (encode i).2.toNat < 2 ^ (encode i).1.width

theorem FitsFormat.c0 : FitsFormat.Statement .c0 := by
  unfold FitsFormat.Statement; decide

theorem FitsFormat.c1 : FitsFormat.Statement .c1 := by
  unfold FitsFormat.Statement; decide

theorem FitsFormat.d0 : FitsFormat.Statement .d0 := by
  unfold FitsFormat.Statement; decide

theorem FitsFormat.d1 : FitsFormat.Statement .d1 := by
  unfold FitsFormat.Statement; decide

theorem FitsFormat.r : FitsFormat.Statement .r := by
  unfold FitsFormat.Statement; decide

theorem FitsFormat.clkSameLo (dataLevel : Level) : FitsFormat.Statement (.clkSameLo dataLevel) := by
  unfold FitsFormat.Statement; cases dataLevel <;> decide

theorem FitsFormat.clkSameHi (dataLevel : Level) : FitsFormat.Statement (.clkSameHi dataLevel) := by
  unfold FitsFormat.Statement; cases dataLevel <;> decide

theorem FitsFormat.clkRise (dataLevel : Level) : FitsFormat.Statement (.clkRise dataLevel) := by
  unfold FitsFormat.Statement; cases dataLevel <;> decide

theorem FitsFormat.clkFall (dataLevel : Level) : FitsFormat.Statement (.clkFall dataLevel) := by
  unfold FitsFormat.Statement; cases dataLevel <;> decide

theorem FitsFormat.datSameLo (clockLevel : Level) : FitsFormat.Statement (.datSameLo clockLevel) := by
  unfold FitsFormat.Statement; cases clockLevel <;> decide

theorem FitsFormat.datSameHi (clockLevel : Level) : FitsFormat.Statement (.datSameHi clockLevel) := by
  unfold FitsFormat.Statement; cases clockLevel <;> decide

theorem FitsFormat.datRiseClklow : FitsFormat.Statement .datRiseClklow := by
  unfold FitsFormat.Statement; decide

theorem FitsFormat.datFallClklow : FitsFormat.Statement .datFallClklow := by
  unfold FitsFormat.Statement; decide

theorem FitsFormat.datStart : FitsFormat.Statement .datStart := by
  unfold FitsFormat.Statement; decide

theorem FitsFormat.datStop : FitsFormat.Statement .datStop := by
  unfold FitsFormat.Statement; decide

theorem FitsFormat.fallIdle : FitsFormat.Statement .fallIdle := by
  unfold FitsFormat.Statement; decide

theorem FitsFormat.fallStartWait : FitsFormat.Statement .fallStartWait := by
  unfold FitsFormat.Statement; decide

theorem FitsFormat.fallGetAddress : FitsFormat.Statement .fallGetAddress := by
  unfold FitsFormat.Statement; decide

theorem FitsFormat.fallAddressWriteAck : FitsFormat.Statement .fallAddressWriteAck := by
  unfold FitsFormat.Statement; decide

theorem FitsFormat.fallAddressReadAck : FitsFormat.Statement .fallAddressReadAck := by
  unfold FitsFormat.Statement; decide

theorem FitsFormat.fallGetRegNr : FitsFormat.Statement .fallGetRegNr := by
  unfold FitsFormat.Statement; decide

theorem FitsFormat.fallRegNrAck : FitsFormat.Statement .fallRegNrAck := by
  unfold FitsFormat.Statement; decide

theorem FitsFormat.fallReadRegs : FitsFormat.Statement .fallReadRegs := by
  unfold FitsFormat.Statement; decide

theorem FitsFormat.fallReadAck : FitsFormat.Statement .fallReadAck := by
  unfold FitsFormat.Statement; decide

theorem FitsFormat.fallWriteRegs : FitsFormat.Statement .fallWriteRegs := by
  unfold FitsFormat.Statement; decide

theorem FitsFormat.fallWriteAck : FitsFormat.Statement .fallWriteAck := by
  unfold FitsFormat.Statement; decide

theorem FitsFormat.slaW : FitsFormat.Statement .slaW := by
  unfold FitsFormat.Statement; decide

theorem FitsFormat.slaR : FitsFormat.Statement .slaR := by
  unfold FitsFormat.Statement; decide

theorem FitsFormat.addrOther (busAddress : BitVec 7) (direction : BitVec 1) :
    FitsFormat.Statement (.addrOther busAddress direction) :=
  (encode (.addrOther busAddress direction)).2.isLt

theorem FitsFormat.wControl : FitsFormat.Statement .wControl := by
  unfold FitsFormat.Statement; decide

theorem FitsFormat.wCentiseconds : FitsFormat.Statement .wCentiseconds := by
  unfold FitsFormat.Statement; decide

theorem FitsFormat.wSeconds : FitsFormat.Statement .wSeconds := by
  unfold FitsFormat.Statement; decide

theorem FitsFormat.wMinutes : FitsFormat.Statement .wMinutes := by
  unfold FitsFormat.Statement; decide

theorem FitsFormat.wHours : FitsFormat.Statement .wHours := by
  unfold FitsFormat.Statement; decide

theorem FitsFormat.wYearDate : FitsFormat.Statement .wYearDate := by
  unfold FitsFormat.Statement; decide

theorem FitsFormat.wWeekdayMonth : FitsFormat.Statement .wWeekdayMonth := by
  unfold FitsFormat.Statement; decide

theorem FitsFormat.wTimerDays : FitsFormat.Statement .wTimerDays := by
  unfold FitsFormat.Statement; decide

theorem FitsFormat.wAlarmControl : FitsFormat.Statement .wAlarmControl := by
  unfold FitsFormat.Statement; decide

theorem FitsFormat.wAlarmCentiseconds : FitsFormat.Statement .wAlarmCentiseconds := by
  unfold FitsFormat.Statement; decide

theorem FitsFormat.wAlarmSeconds : FitsFormat.Statement .wAlarmSeconds := by
  unfold FitsFormat.Statement; decide

theorem FitsFormat.wAlarmMinutes : FitsFormat.Statement .wAlarmMinutes := by
  unfold FitsFormat.Statement; decide

theorem FitsFormat.wAlarmHours : FitsFormat.Statement .wAlarmHours := by
  unfold FitsFormat.Statement; decide

theorem FitsFormat.wAlarmDate : FitsFormat.Statement .wAlarmDate := by
  unfold FitsFormat.Statement; decide

theorem FitsFormat.wAlarmMonth : FitsFormat.Statement .wAlarmMonth := by
  unfold FitsFormat.Statement; decide

theorem FitsFormat.wAlarmTimer : FitsFormat.Statement .wAlarmTimer := by
  unfold FitsFormat.Statement; decide

theorem FitsFormat.wRam16To31 (low : BitVec 4) :
    FitsFormat.Statement (.wRam16To31 low) :=
  (encode (.wRam16To31 low)).2.isLt

theorem FitsFormat.wRam32To63 (low : BitVec 5) :
    FitsFormat.Statement (.wRam32To63 low) :=
  (encode (.wRam32To63 low)).2.isLt

theorem FitsFormat.wRam64To127 (low : BitVec 6) :
    FitsFormat.Statement (.wRam64To127 low) :=
  (encode (.wRam64To127 low)).2.isLt

theorem FitsFormat.wRam128To255 (low : BitVec 7) :
    FitsFormat.Statement (.wRam128To255 low) :=
  (encode (.wRam128To255 low)).2.isLt

theorem FitsFormat.rControl : FitsFormat.Statement .rControl := by
  unfold FitsFormat.Statement; decide

theorem FitsFormat.rCentiseconds : FitsFormat.Statement .rCentiseconds := by
  unfold FitsFormat.Statement; decide

theorem FitsFormat.rSeconds : FitsFormat.Statement .rSeconds := by
  unfold FitsFormat.Statement; decide

theorem FitsFormat.rMinutes : FitsFormat.Statement .rMinutes := by
  unfold FitsFormat.Statement; decide

theorem FitsFormat.rHours : FitsFormat.Statement .rHours := by
  unfold FitsFormat.Statement; decide

theorem FitsFormat.rYearDate : FitsFormat.Statement .rYearDate := by
  unfold FitsFormat.Statement; decide

theorem FitsFormat.rWeekdayMonth : FitsFormat.Statement .rWeekdayMonth := by
  unfold FitsFormat.Statement; decide

theorem FitsFormat.rTimerDays : FitsFormat.Statement .rTimerDays := by
  unfold FitsFormat.Statement; decide

theorem FitsFormat.rAlarmControl : FitsFormat.Statement .rAlarmControl := by
  unfold FitsFormat.Statement; decide

theorem FitsFormat.rAlarmCentiseconds : FitsFormat.Statement .rAlarmCentiseconds := by
  unfold FitsFormat.Statement; decide

theorem FitsFormat.rAlarmSeconds : FitsFormat.Statement .rAlarmSeconds := by
  unfold FitsFormat.Statement; decide

theorem FitsFormat.rAlarmMinutes : FitsFormat.Statement .rAlarmMinutes := by
  unfold FitsFormat.Statement; decide

theorem FitsFormat.rAlarmHours : FitsFormat.Statement .rAlarmHours := by
  unfold FitsFormat.Statement; decide

theorem FitsFormat.rAlarmDate : FitsFormat.Statement .rAlarmDate := by
  unfold FitsFormat.Statement; decide

theorem FitsFormat.rAlarmMonth : FitsFormat.Statement .rAlarmMonth := by
  unfold FitsFormat.Statement; decide

theorem FitsFormat.rAlarmTimer : FitsFormat.Statement .rAlarmTimer := by
  unfold FitsFormat.Statement; decide

theorem FitsFormat.rRam16To31 (low : BitVec 4) :
    FitsFormat.Statement (.rRam16To31 low) :=
  (encode (.rRam16To31 low)).2.isLt

theorem FitsFormat.rRam32To63 (low : BitVec 5) :
    FitsFormat.Statement (.rRam32To63 low) :=
  (encode (.rRam32To63 low)).2.isLt

theorem FitsFormat.rRam64To127 (low : BitVec 6) :
    FitsFormat.Statement (.rRam64To127 low) :=
  (encode (.rRam64To127 low)).2.isLt

theorem FitsFormat.rRam128To255 (low : BitVec 7) :
    FitsFormat.Statement (.rRam128To255 low) :=
  (encode (.rRam128To255 low)).2.isLt

end Sys2Proof.Laws
end

