-- ==== Sys2Proof/Laws/Persistence.lean ====
section
/-! SUPPORT. The laws of the persistence backend: what a name holds after a save or a change from outside
(R262). -/

namespace Sys2Proof.Machine

/-- Nothing is held under an erased name. -/
theorem Store.find_erase_same (l : Store) (k : String) : Store.find (Store.erase l k) k = none := by
  induction l with
  | nil => rfl
  | cons e l ih => simp only [Store.erase]; split <;> simp_all [Store.find]

/-- The other names hold what they held. -/
theorem Store.find_erase_other (l : Store) (k j : String) (h : j ≠ k) :
    Store.find (Store.erase l k) j = Store.find l j := by
  induction l with
  | nil => rfl
  | cons e l ih =>
    simp only [Store.erase, Store.find]
    split
    · rename_i he; subst he; rw [ih, if_neg (Ne.symm h)]
    · simp only [Store.find, ih]

/-- A name holds what was put under it. -/
@[simp] theorem Store.find_put_same (l : Store) (k : String) (image : Option Image) :
    Store.find (Store.put l k image) k = image := by
  cases image
  · exact Store.find_erase_same l k
  · simp [Store.put, Store.find]

/-- A put changes no other name. -/
theorem Store.find_put_other (l : Store) (k j : String) (image : Option Image) (h : j ≠ k) :
    Store.find (Store.put l k image) j = Store.find l j := by
  cases image
  · exact Store.find_erase_other l k j h
  · simp only [Store.put, Store.find, if_neg (Ne.symm h)]
    exact Store.find_erase_other l k j h

/-- A load under the name of a save finds the saved image (R262). -/
theorem Store.load_save_same (l : Store) (c : SaveCall) (d : LoadCall) (h : d.deviceName = c.deviceName) :
    Store.load (Store.save l c) d = some c.image := by
  rw [Store.load, Store.save, h, Store.find_put_same]

/-- A load under another name finds what it found before. -/
theorem Store.load_save_other (l : Store) (c : SaveCall) (d : LoadCall) (h : d.deviceName ≠ c.deviceName) :
    Store.load (Store.save l c) d = Store.load l d := Store.find_put_other _ _ _ _ h

/-- What a name holds after the save of an instance. -/
theorem find_saved (s : State) (k : String) : Store.find s.saved.stored k =
    if k = s.params.deviceName then some s.saveArguments.image else Store.find s.stored k := by
  show Store.find (Store.put s.stored s.params.deviceName (some s.saveArguments.image)) k = _
  split
  · rename_i h; rw [h, Store.find_put_same]
  · exact Store.find_put_other _ _ _ _ ‹_›

/-- What a name holds after a change from outside. -/
theorem find_persisted (s : State) (name k : String) (image : Option Image) :
    Store.find (s.persisted name image).stored k = if k = name then image else Store.find s.stored k := by
  rw [persisted_stored]
  split
  · rename_i h; rw [h, Store.find_put_same]
  · exact Store.find_put_other _ _ _ _ ‹_›

end Sys2Proof.Machine
end

