-- ==== Sys2Proof/Laws/Step.lean ====
section
/-! SUPPORT. What a step can do, once: which call it takes and which operation that is. -/

namespace Sys2Proof.Machine

/-- The event codes are 0 to 4. -/
theorem decodeEv_ok (c : Byte) (h : c.toNat ≤ 4) :
    ∃ i, decode .ev c = .ok i ∧ i ∈ [Instr.c0, .c1, .d0, .d1, .r] := by
  have hc : c = 0#8 ∨ c = 1#8 ∨ c = 2#8 ∨ c = 3#8 ∨ c = 4#8 := by revert c; decide
  rcases hc with rfl | rfl | rfl | rfl | rfl <;> exact ⟨_, rfl, by decide⟩

/-- The codes above 4 are not events. -/
theorem decodeEv_error (c : Byte) (h : 4 < c.toNat) : decode .ev c = .error (.notAnEvent c) := by
  revert c; decide

/-- What the fetch of a bus operation gives. -/
theorem fetch_bus (s : State) (code : Byte) (h : HostClock) (rest : List Input) (i : Instr)
    (hl : s.live = true) (hi : s.inputs = .bus code h :: rest) (hd : decode .ev code = .ok i) :
    fetch s = .instruction i (s.taken rest h) := by
  simp only [fetch, hi, hl, if_true, hd]

/-- A step that answers a next state found no call, a bus operation, a creation, a destruction, or a change
of what the persistence backend holds. -/
theorem step_next_cases (s t : State) (h : step s = .next t) :
    (s.inputs = [] ∧ t = s) ∨
    (∃ code c rest i, s.live = true ∧ s.inputs = .bus code c :: rest ∧ decode .ev code = .ok i ∧
      exec i (s.taken rest c) = .next t) ∨
    (∃ p rest, s.inputs = .create p :: rest ∧ create p (s.taken rest s.host) = .next t) ∨
    (∃ b rest, s.inputs = .destroy b :: rest ∧ destroy b (s.taken rest s.host) = .next t) ∨
    (∃ name image rest, s.inputs = .persist name image :: rest ∧
      t = (s.taken rest s.host).persisted name image) := by
  rcases hi : s.inputs with _ | ⟨_ | _ | _ | _ | _, rest⟩
  · simp only [step, fetch, hi, Host.Outcome.next.injEq] at h
    exact .inl ⟨rfl, h.symm⟩
  · rename_i code c
    by_cases hl : s.live = true
    · cases hd : decode .ev code with
      | ok i =>
        simp only [step, fetch_bus s code c rest i hl hi hd] at h
        exact .inr (.inl ⟨code, c, rest, i, hl, rfl, hd, h⟩)
      | error e => simp [step, fetch, hi, hl, hd] at h
    · simp [step, fetch, hi, hl] at h
  · simp only [step, fetch, hi] at h
    exact .inr (.inr (.inl ⟨_, _, rfl, h⟩))
  · simp only [step, fetch, hi] at h
    exact .inr (.inr (.inr (.inl ⟨_, _, rfl, h⟩)))
  · simp [step, fetch, hi] at h
  · simp only [step, fetch, hi, Host.Outcome.next.injEq] at h
    exact .inr (.inr (.inr (.inr ⟨_, _, _, rfl, h.symm⟩)))

/-- A creation that answers a next state made a fresh instance of what the load by its name found. -/
theorem create_next_cases (p : Params) (s t : State) (h : create p s = .next t) :
    s.live = false ∧ 1 ≤ p.ramSize ∧ p.ramSize ≤ 240 ∧
      ((s.stored.load p.loadArguments = none ∧ t = s.created p [] RegisterBlock.zero 0) ∨
        ∃ g, s.stored.load p.loadArguments = some g ∧ g.ram.length = p.ramSize ∧
          ∃ hr : g.registers.length = 16,
            t = s.created p (Memory.ofBlock g.ram 0) (RegisterBlock.ofBlock g.registers hr) g.offset) := by
  unfold create at h
  cases hl : s.live <;> simp only [hl] at h
  · split at h
    · cases h
    · split at h
      · rename_i hp
        refine ⟨rfl, hp.1, hp.2, ?_⟩
        unfold adopt at h
        split at h
        · cases h; exact .inl ⟨‹_›, rfl⟩
        · rename_i g hg
          split at h
          · split at h
            · cases h; exact .inr ⟨g, hg, ‹_›, ‹_›, rfl⟩
            · cases h
          · cases h
      · cases h
  · simp at h

/-- A destruction that answers a next state saved if asked to and dirty, ended the instance, and changed
nothing else. -/
theorem destroy_next_cases (b : Bool) (s t : State) (h : destroy b s = .next t) :
    s.live = true ∧
      t = (if b && s.ctx.dirty then s.saved else { s with saveCall := none }).ended := by
  unfold destroy at h
  split at h
  · cases h; exact ⟨‹_›, rfl⟩
  · cases h

end Sys2Proof.Machine
end

