-- ==== Sys2Proof/Tests/Slice0.lean ====
section
/-! SUPPORT. Tests: the decoder on words of the opcode map, single steps with results from the spec's own
examples and vectors, and a witness for the hypotheses of every statement. -/

namespace Sys2Proof.Tests

open Sys2Proof.Machine

/-! ### Well-formedness and decoding -/

/-- The address bytes 0xA0 and 0xA1 are no ADDR_OTHER. -/
theorem test_wellFormed_refuses_selects :
    Instr.wellFormed (.addrOther 0x50#7 0#1) = false ∧ Instr.wellFormed (.addrOther 0x50#7 1#1) = false := by
  decide

theorem test_wellFormed_accepts :
    Instr.wellFormed (.addrOther 0x51#7 0#1) = true ∧ Instr.wellFormed (.addrOther 0x00#7 1#1) = true := by
  decide

/-- Words of format EV, from the opcode map (R106). -/
theorem test_decode_ev :
    decode .ev 0b00000000#8 = .ok .c0 ∧
    decode .ev 0b00000001#8 = .ok .c1 ∧
    decode .ev 0b00000010#8 = .ok .d0 ∧
    decode .ev 0b00000011#8 = .ok .d1 ∧
    decode .ev 0b00000100#8 = .ok .r := by
  refine ⟨rfl, rfl, rfl, rfl, rfl⟩

/-- Words of format CLK, from the opcode map (R106). -/
theorem test_decode_clk :
    decode .clk 0b00000000#8 = .ok (.clkSameLo false) ∧
    decode .clk 0b00000001#8 = .ok (.clkSameLo true) ∧
    decode .clk 0b00000110#8 = .ok (.clkSameHi false) ∧
    decode .clk 0b00000111#8 = .ok (.clkSameHi true) ∧
    decode .clk 0b00000010#8 = .ok (.clkRise false) ∧
    decode .clk 0b00000011#8 = .ok (.clkRise true) ∧
    decode .clk 0b00000100#8 = .ok (.clkFall false) ∧
    decode .clk 0b00000101#8 = .ok (.clkFall true) := by
  refine ⟨rfl, rfl, rfl, rfl, rfl, rfl, rfl, rfl⟩

/-- Words of format DAT, from the opcode map (R106). -/
theorem test_decode_dat :
    decode .dat 0b00000000#8 = .ok (.datSameLo false) ∧
    decode .dat 0b00000001#8 = .ok (.datSameLo true) ∧
    decode .dat 0b00000110#8 = .ok (.datSameHi false) ∧
    decode .dat 0b00000111#8 = .ok (.datSameHi true) ∧
    decode .dat 0b00000010#8 = .ok .datRiseClklow ∧
    decode .dat 0b00000100#8 = .ok .datFallClklow ∧
    decode .dat 0b00000101#8 = .ok .datStart ∧
    decode .dat 0b00000011#8 = .ok .datStop := by
  refine ⟨rfl, rfl, rfl, rfl, rfl, rfl, rfl, rfl⟩

/-- Words of format FALL, from the opcode map (R106). -/
theorem test_decode_fall :
    decode .fall 0b00000000#8 = .ok .fallIdle ∧
    decode .fall 0b00000001#8 = .ok .fallStartWait ∧
    decode .fall 0b00000010#8 = .ok .fallGetAddress ∧
    decode .fall 0b00000011#8 = .ok .fallAddressWriteAck ∧
    decode .fall 0b00000100#8 = .ok .fallAddressReadAck ∧
    decode .fall 0b00000101#8 = .ok .fallGetRegNr ∧
    decode .fall 0b00000110#8 = .ok .fallRegNrAck ∧
    decode .fall 0b00000111#8 = .ok .fallReadRegs ∧
    decode .fall 0b00001000#8 = .ok .fallReadAck ∧
    decode .fall 0b00001001#8 = .ok .fallWriteRegs ∧
    decode .fall 0b00001010#8 = .ok .fallWriteAck := by
  refine ⟨rfl, rfl, rfl, rfl, rfl, rfl, rfl, rfl, rfl, rfl, rfl⟩

/-- Words of format ADDR, from the opcode map (R106). -/
theorem test_decode_addr :
    decode .addr 0b10100000#8 = .ok .slaW ∧
    decode .addr 0b10100001#8 = .ok .slaR ∧
    decode .addr 0b10100010#8 = .ok (.addrOther 0b1010001#7 0b0#1) ∧
    decode .addr 0b10100011#8 = .ok (.addrOther 0b1010001#7 0b1#1) ∧
    decode .addr 0b00000000#8 = .ok (.addrOther 0b0000000#7 0b0#1) := by
  refine ⟨rfl, rfl, rfl, rfl, rfl⟩

/-- Words of format WADDR, from the opcode map (R106). -/
theorem test_decode_waddr_part1 :
    decode .waddr 0b00000000#8 = .ok .wControl ∧
    decode .waddr 0b00000001#8 = .ok .wCentiseconds ∧
    decode .waddr 0b00000010#8 = .ok .wSeconds ∧
    decode .waddr 0b00000011#8 = .ok .wMinutes ∧
    decode .waddr 0b00000100#8 = .ok .wHours ∧
    decode .waddr 0b00000101#8 = .ok .wYearDate ∧
    decode .waddr 0b00000110#8 = .ok .wWeekdayMonth ∧
    decode .waddr 0b00000111#8 = .ok .wTimerDays ∧
    decode .waddr 0b00001000#8 = .ok .wAlarmControl ∧
    decode .waddr 0b00001001#8 = .ok .wAlarmCentiseconds ∧
    decode .waddr 0b00001010#8 = .ok .wAlarmSeconds ∧
    decode .waddr 0b00001011#8 = .ok .wAlarmMinutes ∧
    decode .waddr 0b00001100#8 = .ok .wAlarmHours ∧
    decode .waddr 0b00001101#8 = .ok .wAlarmDate := by
  refine ⟨rfl, rfl, rfl, rfl, rfl, rfl, rfl, rfl, rfl, rfl, rfl, rfl, rfl, rfl⟩

/-- Words of format WADDR, from the opcode map (R106). -/
theorem test_decode_waddr_part2 :
    decode .waddr 0b00001110#8 = .ok .wAlarmMonth ∧
    decode .waddr 0b00001111#8 = .ok .wAlarmTimer ∧
    decode .waddr 0b00010101#8 = .ok (.wRam16To31 5#4) ∧
    decode .waddr 0b00011111#8 = .ok (.wRam16To31 15#4) ∧
    decode .waddr 0b00100101#8 = .ok (.wRam32To63 5#5) ∧
    decode .waddr 0b00111111#8 = .ok (.wRam32To63 31#5) ∧
    decode .waddr 0b01000101#8 = .ok (.wRam64To127 5#6) ∧
    decode .waddr 0b01111111#8 = .ok (.wRam64To127 63#6) ∧
    decode .waddr 0b10000101#8 = .ok (.wRam128To255 5#7) ∧
    decode .waddr 0b11111111#8 = .ok (.wRam128To255 127#7) := by
  refine ⟨rfl, rfl, rfl, rfl, rfl, rfl, rfl, rfl, rfl, rfl⟩

/-- Words of format RADDR, from the opcode map (R106). -/
theorem test_decode_raddr_part1 :
    decode .raddr 0b00000000#8 = .ok .rControl ∧
    decode .raddr 0b00000001#8 = .ok .rCentiseconds ∧
    decode .raddr 0b00000010#8 = .ok .rSeconds ∧
    decode .raddr 0b00000011#8 = .ok .rMinutes ∧
    decode .raddr 0b00000100#8 = .ok .rHours ∧
    decode .raddr 0b00000101#8 = .ok .rYearDate ∧
    decode .raddr 0b00000110#8 = .ok .rWeekdayMonth ∧
    decode .raddr 0b00000111#8 = .ok .rTimerDays ∧
    decode .raddr 0b00001000#8 = .ok .rAlarmControl ∧
    decode .raddr 0b00001001#8 = .ok .rAlarmCentiseconds ∧
    decode .raddr 0b00001010#8 = .ok .rAlarmSeconds ∧
    decode .raddr 0b00001011#8 = .ok .rAlarmMinutes ∧
    decode .raddr 0b00001100#8 = .ok .rAlarmHours ∧
    decode .raddr 0b00001101#8 = .ok .rAlarmDate := by
  refine ⟨rfl, rfl, rfl, rfl, rfl, rfl, rfl, rfl, rfl, rfl, rfl, rfl, rfl, rfl⟩

/-- Words of format RADDR, from the opcode map (R106). -/
theorem test_decode_raddr_part2 :
    decode .raddr 0b00001110#8 = .ok .rAlarmMonth ∧
    decode .raddr 0b00001111#8 = .ok .rAlarmTimer ∧
    decode .raddr 0b00010101#8 = .ok (.rRam16To31 5#4) ∧
    decode .raddr 0b00011111#8 = .ok (.rRam16To31 15#4) ∧
    decode .raddr 0b00100101#8 = .ok (.rRam32To63 5#5) ∧
    decode .raddr 0b00111111#8 = .ok (.rRam32To63 31#5) ∧
    decode .raddr 0b01000101#8 = .ok (.rRam64To127 5#6) ∧
    decode .raddr 0b01111111#8 = .ok (.rRam64To127 63#6) ∧
    decode .raddr 0b10000101#8 = .ok (.rRam128To255 5#7) ∧
    decode .raddr 0b11111111#8 = .ok (.rRam128To255 127#7) := by
  refine ⟨rfl, rfl, rfl, rfl, rfl, rfl, rfl, rfl, rfl, rfl⟩

/-- Numbers that are no row of their format are refused by name (R104, R106). -/
theorem test_decode_refuses :
    decode .ev 0x05#8 = .error (.notAnEvent 0x05#8) ∧ decode .fall 0x0B#8 = .error (.notAState 0x0B#8) ∧
    decode .clk 0x08#8 = .error (.notALinePattern 0x08#8) ∧
    decode .dat 0xFF#8 = .error (.notALinePattern 0xFF#8) := by
  refine ⟨rfl, rfl, rfl, rfl⟩

theorem test_decodeTableWord :
    decodeTableWord 8 0x02 = some .d0 ∧ decodeTableWord 8 0x05 = none ∧ decodeTableWord 8 256 = none := by
  refine ⟨rfl, rfl, rfl⟩

/-! ### Single steps -/

/-- A state in a protocol state, with the registers of the protocol machine and the lines given; RAM and
registers hold the bytes of the examples of R178 and R180. -/
def inState (q : ProtocolState) (n : Nat) (shift pointer : Byte) (clock data : Level) : State :=
  { State.reset with
    ctx :=
      { State.reset.ctx with
        ram := [(0, 0x5A#8)]
        registers := #v[0x84, 0, 0, 0, 0, 0, 0, 0, 0xB0, 0x11, 0x22, 0x33, 0x44, 0x55, 0x66, 0x77]
        readSnapshot := #v[0x84, 0x25, 0x37, 0x16, 0x15, 0x29, 0xA2, 0, 0xB0, 0x11, 0x22, 0x33, 0x44, 0x55,
          0x66, 0x77]
        protocolState := q
        bitCount := n
        shiftRegister := shift
        registerPointer := pointer
        clockLine := clock
        dataLine := data } }

/-- A state with the clock running at offset 0 or halted at a latch, the host clock at `now`, and a byte
assembled for a bank write. -/
def clockAt (halted : Bool) (latch now : Int) (v : Byte) : State :=
  { inState .writeRegs 8 v 0x02 false true with
    host := { now := now, cs := 25 }
    ctx := { (inState .writeRegs 8 v 0x02 false true).ctx with halted := halted, haltLatch := latch } }

/-- A step's next state has a property. -/
def after (r : Result) (p : State → Bool) : Bool :=
  match r with
  | .next t => p t
  | .fault _ => false
  | .refused _ => false

/-- R110, R126: redundant sets, also with the clock high and the data line low. -/
theorem test_redundant :
    exec .c0 (inState .getAddress 3 0x5 0 false true) = .next (inState .getAddress 3 0x5 0 false true) ∧
    exec .d0 (inState .getAddress 3 0x5 0 true false) = .next (inState .getAddress 3 0x5 0 true false) ∧
    exec (.clkSameLo true) State.reset = .next State.reset ∧
    exec (.clkSameHi false) State.reset = .next State.reset ∧
    exec (.datSameLo true) State.reset = .next State.reset ∧
    exec (.datSameHi false) State.reset = .next State.reset := by
  refine ⟨rfl, rfl, rfl, rfl, rfl, rfl⟩

/-- R111: in GET_ADDRESS with three bits in, C1 changes only the clock line. -/
theorem test_clkRise :
    exec .c1 (inState .getAddress 3 0x5 0 false true) = .next (inState .getAddress 3 0x5 0 true true) ∧
    exec (.clkRise true) (inState .getAddress 3 0x5 0 false true) =
      .next (inState .getAddress 3 0x5 0 true true) := by
  refine ⟨rfl, rfl⟩

/-- R112, R115: in START_WAIT, C0 enters GET_ADDRESS and samples no bit. -/
theorem test_clkFall :
    exec .c0 (inState .startWait 0 0 0 true true) = .next (inState .getAddress 0 0 0 false true) ∧
    exec (.clkFall true) (inState .startWait 0 0 0 true true) =
      .next (inState .getAddress 0 0 0 false true) := by
  refine ⟨rfl, rfl⟩

/-- R127: in WRITE_REGS with the clock low, D1 only sets the data line. -/
theorem test_datRise :
    exec .d1 (inState .writeRegs 3 0x5 0 false false) = .next (inState .writeRegs 3 0x5 0 false true) ∧
    exec .datRiseClklow (inState .writeRegs 3 0x5 0 false false) =
      .next (inState .writeRegs 3 0x5 0 false true) := by
  refine ⟨rfl, rfl⟩

theorem test_datFall :
    exec .d0 (inState .writeRegs 3 0x5 0 false true) = .next (inState .writeRegs 3 0x5 0 false false) ∧
    exec .datFallClklow (inState .writeRegs 3 0x5 0 false true) =
      .next (inState .writeRegs 3 0x5 0 false false) := by
  refine ⟨rfl, rfl⟩

/-- R128: the idle bus at host time 1000: the snapshot shows 00:16:40 of 1970-01-01, a Thursday. -/
theorem test_datStart :
    after (exec .d0 (clockAt false 0 1000 0)) (fun _ => true) = true ∧
    after (exec .datStart (clockAt false 0 1000 0x7F)) (fun t =>
      t.ctx.protocolState = .startWait ∧ t.ctx.bitCount = 0 ∧ t.ctx.shiftRegister = 0 ∧
      t.ctx.dataLine = false ∧
      t.ctx.readSnapshot = #v[0x84, 0x25, 0x40, 0x16, 0x00, 0x81, 0xA1, 0x00, 0xB0, 0x11, 0x22, 0x33,
        0x44, 0x55, 0x66, 0x77]) = true := by
  decide

/-- R180: the whole snapshot of 2024-02-29 15:00:00 in 12-hour form. -/
theorem test_snapshot_worked :
    after (exec .datStart
        { State.reset with
          host := { now := 1709218800, cs := 7 }
          ctx := { State.reset.ctx with
            amPm := true
            registers := #v[0, 0, 0, 0, 0, 0, 0, 0, 0xB0, 0x11, 0x22, 0x33, 0x44, 0x55, 0x66, 0x77] } })
      (fun t => t.ctx.readSnapshot = #v[0x00, 0x07, 0x00, 0x00, 0xC3, 0x29, 0xA2, 0x00, 0xB0, 0x11, 0x22,
        0x33, 0x44, 0x55, 0x66, 0x77]) = true := by
  decide

/-- R129: STOP in WRITE_REGS with three bits in. -/
theorem test_datStop :
    exec .d1 (inState .writeRegs 3 0x5 0x10 true false) = .next (inState .idle 3 0x5 0x10 true true) ∧
    exec .datStop (inState .writeRegs 3 0x5 0x10 true false) = .next (inState .idle 3 0x5 0x10 true true) := by
  refine ⟨rfl, rfl⟩

/-- R133: 0x37 at bit 2 reads 1; an acknowledge state reads 0; an idle bus 1. -/
theorem test_r :
    after (exec .r (inState .readRegs 2 0x37 0 false true)) (fun t => t.result = some true) = true ∧
    after (exec .r (inState .readRegs 0 0x37 0 false true)) (fun t => t.result = some false) = true ∧
    after (exec .r (inState .readAck 8 0xFF 0 false true)) (fun t => t.result = some false) = true ∧
    after (exec .r (inState .idle 0 0 0 false false)) (fun t => t.result = some true) = true := by
  decide

/-- R125, R117, R119, R121. -/
theorem test_fall_plain :
    exec .fallIdle (inState .idle 8 0x5 0 true true) = .next (inState .idle 8 0x5 0 true true) ∧
    exec .fallStartWait (inState .startWait 0 0 0 true false) = .next (inState .getAddress 0 0 0 true false) ∧
    exec .fallAddressWriteAck (inState .addressWriteAck 8 0xA0 0 true true) =
      .next (inState .getRegNr 0 0 0 true true) ∧
    exec .fallRegNrAck (inState .regNrAck 8 0x10 0x10 true true) =
      .next (inState .writeRegs 0 0 0x10 true true) ∧
    exec .fallWriteAck (inState .writeAck 8 0x5A 0x11 true true) =
      .next (inState .writeRegs 0 0 0x11 true true) := by
  refine ⟨rfl, rfl, rfl, rfl, rfl⟩

/-- R116: the samples of 0xA1 select a read, those of 0xA2 abort. -/
theorem test_fallGetAddress :
    exec .fallGetAddress (inState .getAddress 7 0x50 0 true true) =
      .next (inState .addressReadAck 8 0xA1 0 true true) ∧
    exec .fallGetAddress (inState .getAddress 7 0x51 0 true false) =
      .next (inState .idle 8 0xA2 0 true false) := by
  refine ⟨rfl, rfl⟩

theorem test_address_rows :
    exec .slaW (inState .getAddress 8 0xA0 0 true true) = .next (inState .addressWriteAck 8 0xA0 0 true true) ∧
    exec .slaR (inState .getAddress 8 0xA1 0 true true) = .next (inState .addressReadAck 8 0xA1 0 true true) ∧
    exec (.addrOther 0x51 0) (inState .getAddress 8 0xA2 0 true true) =
      .next (inState .idle 8 0xA2 0 true true) := by
  refine ⟨rfl, rfl, rfl⟩

/-- R118 and vector V28: the pointer byte, and at `RAM_SIZE` 16 the pointer 0x25 mod 32. -/
theorem test_fallGetRegNr :
    exec .fallGetRegNr (inState .getRegNr 7 0x08 0 true false) =
      .next (inState .regNrAck 8 0x10 0x10 true false) ∧
    after (exec .fallGetRegNr
        { inState .getRegNr 7 0x12 0 true true with
          params := { ramSize := 16, deviceName := "", backend := .reference } })
      (fun t => t.ctx.registerPointer = 0x05#8) = true := by
  refine ⟨rfl, by decide⟩

/-- R122: pointer 2, snapshot byte 0x37. -/
theorem test_fallAddressReadAck :
    exec .fallAddressReadAck (inState .addressReadAck 8 0xA1 0x02 true true) =
      .next (inState .readRegs 0 0x37 0x02 true true) := rfl

/-- R123: the seventh and the eighth edge. -/
theorem test_fallReadRegs :
    exec .fallReadRegs (inState .readRegs 6 0x37 0 true true) = .next (inState .readRegs 7 0x37 0 true true) ∧
    exec .fallReadRegs (inState .readRegs 7 0x37 0 true true) = .next (inState .readAck 8 0x37 0 true true) := by
  refine ⟨rfl, rfl⟩

/-- R124: ACK at pointer 2, and NACK; the pointer 255 wraps to 0. -/
theorem test_fallReadAck :
    exec .fallReadAck (inState .readAck 8 0x37 0x02 true false) =
      .next (inState .readRegs 0 0x16 0x03 true false) ∧
    exec .fallReadAck (inState .readAck 8 0x37 0x02 true true) = .next (inState .idle 8 0x37 0x02 true true) ∧
    exec .fallReadAck (inState .readAck 8 0 0xFF true false) =
      .next (inState .readRegs 0 0x84 0x00 true false) := by
  refine ⟨rfl, rfl, rfl⟩

/-- R120: 0x5A to address 0x10; vector V25: 0x77 to 0xFF wraps the pointer. -/
theorem test_fallWriteRegs :
    after (exec .fallWriteRegs (inState .writeRegs 7 0x2D 0x11 true false)) (fun t =>
      t.ctx.ram = [(0, 0x5A#8), (1, 0x5A#8)] ∧ t.ctx.registerPointer = 0x12#8 ∧
      t.ctx.protocolState = .writeAck) = true ∧
    after (exec .fallWriteRegs (inState .writeRegs 7 0x3B 0xFF true true)) (fun t =>
      t.ctx.ram = [(0, 0x5A#8), (239, 0x77#8)] ∧ t.ctx.registerPointer = 0x00#8) = true := by
  decide

/-- R191: halt at offset 5 and time 1000, then resume at 1500. -/
theorem test_wControl :
    after (exec .wControl
        { clockAt false 0 1000 0x80 with
          ctx := { (clockAt false 0 1000 0x80).ctx with offset := 5 } })
      (fun t => t.ctx.haltLatch = 1005 ∧ t.ctx.halted ∧ t.ctx.registers[0] = 0x80#8 ∧
        t.ctx.offset = 5) = true ∧
    after (exec .wControl
        { clockAt true 1005 1500 0x04 with
          ctx := { (clockAt true 1005 1500 0x04).ctx with offset := 5 } })
      (fun t => t.ctx.offset = -495 ∧ t.ctx.halted = false ∧ t.ctx.registers[0] = 0x04#8 ∧
        t.virtualNow = 1005) = true := by
  decide

/-- R192, R198. -/
theorem test_ignored_writes :
    exec .wCentiseconds (clockAt false 0 1000 0x99) = .next (clockAt false 0 1000 0x99) ∧
    exec .wTimerDays (clockAt false 0 1000 0x12) = .next (clockAt false 0 1000 0x12) := by
  refine ⟨rfl, rfl⟩

/-- R193: running at 00:16:40, 0x05; R248: 0x75 carries. -/
theorem test_wSeconds :
    after (exec .wSeconds (clockAt false 0 1000 0x05)) (fun t =>
      t.ctx.offset = -35 ∧ t.ctx.haltLatch = 0) = true ∧
    after (exec .wSeconds (clockAt true 1000 7 0x75)) (fun t =>
      t.ctx.haltLatch = 1035 ∧ t.ctx.offset = 0) = true := by
  decide

/-- R194: halted at 00:16:40, 0x30. -/
theorem test_wMinutes :
    after (exec .wMinutes (clockAt true 1000 7 0x30)) (fun t =>
      t.ctx.haltLatch = 1840 ∧ t.ctx.offset = 0) = true := by
  decide

/-- R195: 3 PM in 12-hour form, then 21 h in 24-hour form. -/
theorem test_wHours :
    after (exec .wHours (clockAt true 1000 7 0xC3)) (fun t =>
      t.ctx.amPm ∧ t.ctx.haltLatch = 55000) = true ∧
    after (exec .wHours (clockAt true 55000 7 0x21)) (fun t =>
      t.ctx.amPm = false ∧ t.ctx.haltLatch = 76600) = true := by
  decide

/-- R196: halted at 2024-02-29 15:00:00, 0x55 gives 2025-02-15 15:00:00. -/
theorem test_wYearDate :
    after (exec .wYearDate (clockAt true 1709218800 7 0x55)) (fun t =>
      dateOf t.ctx.haltLatch = { year := 2025, month := 2, day := 15 } ∧
      secondOfDay t.ctx.haltLatch = 54000) = true := by
  decide

/-- R197: halted at 2025-02-15 15:00:00, 0xE3 gives 2025-03-15. -/
theorem test_wWeekdayMonth :
    after (exec .wWeekdayMonth (clockAt true 1739631600 7 0xE3)) (fun t =>
      dateOf t.ctx.haltLatch = { year := 2025, month := 3, day := 15 } ∧
      secondOfDay t.ctx.haltLatch = 54000) = true := by
  decide

/-- R202: each alarm address stores in its own slot. -/
theorem test_alarm_writes :
    after (exec .wAlarmControl (clockAt false 0 0 0xB1)) (fun t => t.ctx.registers[8] = 0xB1#8) = true ∧
    after (exec .wAlarmCentiseconds (clockAt false 0 0 1)) (fun t => t.ctx.registers[9] = 1#8) = true ∧
    after (exec .wAlarmSeconds (clockAt false 0 0 2)) (fun t => t.ctx.registers[10] = 2#8) = true ∧
    after (exec .wAlarmMinutes (clockAt false 0 0 3)) (fun t => t.ctx.registers[11] = 3#8) = true ∧
    after (exec .wAlarmHours (clockAt false 0 0 4)) (fun t => t.ctx.registers[12] = 4#8) = true ∧
    after (exec .wAlarmDate (clockAt false 0 0 5)) (fun t => t.ctx.registers[13] = 5#8) = true ∧
    after (exec .wAlarmMonth (clockAt false 0 0 6)) (fun t => t.ctx.registers[14] = 6#8) = true ∧
    after (exec .wAlarmTimer (clockAt false 0 0 7)) (fun t => t.ctx.registers[15] = 7#8) = true := by
  decide

/-- R203: address minus 16 in each RAM range, and a zero byte leaves the list. -/
theorem test_ram_writes :
    after (exec (.wRam16To31 0) (clockAt false 0 0 0)) (fun t => t.ctx.ram = []) = true ∧
    after (exec (.wRam32To63 1) (clockAt false 0 0 9)) (fun t => t.ctx.ram = [(0, 0x5A), (17, 9)]) = true ∧
    after (exec (.wRam64To127 2) (clockAt false 0 0 9)) (fun t => t.ctx.ram = [(0, 0x5A), (50, 9)]) = true ∧
    after (exec (.wRam128To255 127) (clockAt false 0 0 9)) (fun t =>
      t.ctx.ram = [(0, 0x5A), (239, 9)]) = true := by
  decide

/-- R178: each register address reads its own byte of the snapshot. -/
theorem test_register_reads :
    [.rControl, .rCentiseconds, .rSeconds, .rMinutes, .rHours, .rYearDate, .rWeekdayMonth, .rTimerDays,
      .rAlarmControl, .rAlarmCentiseconds, .rAlarmSeconds, .rAlarmMinutes, .rAlarmHours, .rAlarmDate,
      .rAlarmMonth, .rAlarmTimer].map (fun i => exec i (inState .readRegs 0 0xEE 0 true true)) =
    [0x84#8, 0x25#8, 0x37#8, 0x16#8, 0x15#8, 0x29#8, 0xA2#8, 0x00#8, 0xB0#8, 0x11#8, 0x22#8, 0x33#8, 0x44#8,
      0x55#8, 0x66#8, 0x77#8].map (fun b => .next (inState .readRegs 0 b 0 true true)) := rfl

/-- R178: `ram[0]` is address 16; unwritten RAM reads 0 in the other ranges. -/
theorem test_ram_reads :
    exec (.rRam16To31 0) (inState .readRegs 0 0xEE 0 true true) = .next (inState .readRegs 0 0x5A 0 true true) ∧
    exec (.rRam32To63 0) (inState .readRegs 0 0xEE 0 true true) = .next (inState .readRegs 0 0 0 true true) ∧
    exec (.rRam64To127 63) (inState .readRegs 0 0xEE 0 true true) = .next (inState .readRegs 0 0 0 true true) ∧
    exec (.rRam128To255 127) (inState .readRegs 0 0xEE 0 true true) =
      .next (inState .readRegs 0 0 0 true true) := by
  refine ⟨rfl, rfl, rfl, rfl⟩

/-- R252: the reference backend at some instants. -/
theorem test_reference_dates :
    dateOf 0 = { year := 1970, month := 1, day := 1 } ∧ fieldOf .weekday 0 = 4 ∧
    dateOf 1709218800 = { year := 2024, month := 2, day := 29 } ∧ fieldOf .weekday 1709218800 = 4 ∧
    dateOf (-1) = { year := 1969, month := 12, day := 31 } ∧ fieldOf .hour (-1) = 23 := by
  decide

/-- With no call a step changes nothing; the word placed by `withFetchWord` runs. -/
theorem test_step :
    step State.reset = .next State.reset ∧
    after (step (State.reset.withFetchWord 8 0x00)) (fun t => t.ctx.clockLine = false) = true ∧
    after (step (State.reset.withFetchWord 8 0x04)) (fun t => t.result = some true) = true := by
  refine ⟨rfl, by decide, by decide⟩

/-! ### Witnesses for the hypotheses of the statements -/

/-- The host clock of the witnesses. -/
def clock0 : HostClock := { now := 1000, cs := 25 }

/-- A state with calls waiting. -/
def calling (s : State) (calls : List Input) : State := { s with inputs := calls }

/-- A state after destruction. -/
def dead (calls : List Input) : State := { State.reset with live := false, inputs := calls }

/-- The parameters of an instance of a given size. -/
def params (n : Nat) : Params := { ramSize := n, deviceName := "rtc", backend := .external }

/-- An image of given sizes. -/
def image (n m : Nat) : Image :=
  { ram := List.replicate n 0x5A#8, registers := List.replicate m 0x80#8, offset := -35 }

/-- The example states meet the invariant when the bit count fits the protocol state. -/
theorem inState_inv (q : ProtocolState) (n : Nat) (v p : Byte) (c d : Level) (calls : List Input)
    (h : q.allowsBitCount n = true) : (calling (inState q n v p c d) calls).Inv where
  ramSize := by show 1 ≤ 240 ∧ 240 ≤ 240; decide
  pointer := p.isLt
  bitCount := h
  ram := rfl
  baselineRam := rfl
  timeSlots := by
    show ∀ i : Fin 16, 1 ≤ i.val → i.val ≤ 7 → (#v[0x84, 0, 0, 0, 0, 0, 0, 0, 0xB0, 0x11, 0x22, 0x33, 0x44,
      0x55, 0x66, 0x77] : RegisterBlock)[i] = RegisterBlock.zero[i]
    decide

theorem witness_DecodeAfterEncode :
    Instr.wellFormed (.addrOther 0x7F#7 1#1) = true ∧ Instr.wellFormed .c0 = true := by decide

theorem witness_EncodeAfterDecode :
    decode .dat 0x05#8 = .ok .datStart ∧ decode .raddr 0xFF#8 = .ok (.rRam128To255 127) := ⟨rfl, rfl⟩

theorem witness_StepRunsTheCalledOperation :
    (calling State.reset [.bus 0x04#8 clock0]).live = true ∧
    (calling State.reset [.bus 0x04#8 clock0]).inputs = .bus 0x04#8 clock0 :: [] ∧
    decode .ev 0x04#8 = .ok .r ∧ Instr.wellFormed .r = true := ⟨rfl, rfl, rfl, rfl⟩

theorem witness_CallsWithoutMeaningRefused :
    (State.reset.live = true ∧ 4 < (0x05#8 : Byte).toNat ∧
      (calling State.reset [.bus 0x05#8 clock0]).inputs = [.bus 0x05#8 clock0]) ∧
    ((dead [.bus 0x00#8 clock0]).live = false ∧ (dead [.bus 0x00#8 clock0]).inputs = [.bus 0x00#8 clock0]) ∧
    ((dead [.destroy true]).live = false ∧ (dead [.destroy true]).inputs = [.destroy true]) ∧
    (calling State.reset [.overlapping 0 (some 1)]).inputs = [.overlapping 0 (some 1)] := by
  refine ⟨⟨rfl, by decide, rfl⟩, ⟨rfl, rfl⟩, ⟨rfl, rfl⟩, rfl⟩

theorem witness_EveryBusOperationCompletes :
    (calling (inState .writeRegs 7 0x2D 0xFF true true) [.bus 0x00#8 clock0]).Inv ∧
    (calling (inState .writeRegs 7 0x2D 0xFF true true) [.bus 0x00#8 clock0]).calls 0x00#8 ∧
    (calling (inState .readRegs 7 0x2D 0xFF true true) [.bus 0x04#8 clock0]).calls 0x04#8 :=
  ⟨inState_inv _ _ _ _ _ _ _ rfl, ⟨rfl, by decide, _, _, rfl⟩, ⟨rfl, by decide, _, _, rfl⟩⟩

theorem witness_EveryInstructionCompletes :
    (calling (inState .writeRegs 7 0x2D 0xFF true true) []).Inv ∧
    Instr.ramAddress (.wRam128To255 127) = some 0xFF#8 ∧ Instr.ramAddress .fallWriteRegs = none ∧
    (0xFF#8 : Byte).toNat < (inState .writeRegs 7 0x2D 0xFF true true).addrSpace :=
  ⟨inState_inv _ _ _ _ _ _ _ rfl, rfl, rfl, by decide⟩

theorem witness_StepKeepsInvariant :
    (calling (inState .writeRegs 7 0x2D 0xFF true true) [.bus 0x00#8 clock0]).Inv ∧
    ∃ t, step (calling (inState .writeRegs 7 0x2D 0xFF true true) [.bus 0x00#8 clock0]) = .next t :=
  ⟨inState_inv _ _ _ _ _ _ _ rfl, _, rfl⟩

theorem witness_PointerStaysInRange :
    ((dead [.create (params 1)]).callsCreate ∧
      ∃ t, step (dead [.create (params 1)]) = .next t) ∧
    (inState .writeRegs 7 0x2D 0xFF true true).ctx.registerPointer.toNat <
      (inState .writeRegs 7 0x2D 0xFF true true).addrSpace ∧
    1 ≤ (inState .writeRegs 7 0x2D 0xFF true true).params.ramSize ∧
    (inState .writeRegs 7 0x2D 0xFF true true).params.ramSize ≤ 240 ∧
    ∃ t, step (calling (inState .writeRegs 7 0x2D 0xFF true true) [.bus 0x00#8 clock0]) = .next t :=
  ⟨⟨⟨_, _, rfl⟩, _, rfl⟩, by decide, by decide, by decide, _, rfl⟩

/-- A state after destruction with a creation waiting and one image stored. -/
def creating (p : Params) (name : String) (g : Image) : State :=
  { dead [.create p] with stored := [(name, g)] }

theorem witness_CreateWithoutImage :
    (creating (params 1) "other" (image 1 16)).live = false ∧ 1 ≤ (params 1).ramSize ∧
    (params 240).ramSize ≤ 240 ∧
    (creating (params 1) "other" (image 1 16)).inputs = [.create (params 1)] ∧
    Store.find (creating (params 1) "other" (image 1 16)).stored (params 1).deviceName = none := by
  refine ⟨rfl, by decide, by decide, rfl, rfl⟩

theorem witness_CreateFromImage :
    (creating (params 240) "rtc" (image 240 16)).live = false ∧ 1 ≤ (params 240).ramSize ∧
    (params 240).ramSize ≤ 240 ∧ (image 240 16).ram.length = (params 240).ramSize ∧
    (image 240 16).registers.length = 16 ∧
    (creating (params 240) "rtc" (image 240 16)).inputs = [.create (params 240)] ∧
    Store.find (creating (params 240) "rtc" (image 240 16)).stored (params 240).deviceName =
      some (image 240 16) := by
  exact ⟨rfl, by decide, by decide, List.length_replicate, rfl, rfl, rfl⟩

theorem witness_CreateRefusals :
    ((calling State.reset [.create (params 240)]).live = true ∧
      (calling State.reset [.create (params 240)]).inputs = [.create (params 240)]) ∧
    ((dead [.create (params 0)]).live = false ∧ (params 0).ramSize = 0 ∧ 240 < (params 241).ramSize ∧
      (dead [.create (params 241)]).inputs = [.create (params 241)]) ∧
    ((creating (params 240) "rtc" (image 239 16)).live = false ∧
      (creating (params 240) "rtc" (image 239 16)).inputs = [.create (params 240)] ∧
      Store.find (creating (params 240) "rtc" (image 239 16)).stored (params 240).deviceName =
        some (image 239 16) ∧
      1 ≤ (params 240).ramSize ∧ (params 240).ramSize ≤ 240 ∧
      ((image 239 16).ram.length ≠ (params 240).ramSize ∨ (image 239 16).registers.length ≠ 16)) ∧
    (image 240 17).registers.length ≠ 16 := by
  refine ⟨⟨rfl, rfl⟩, ⟨rfl, rfl, by decide, rfl⟩,
    ⟨rfl, rfl, rfl, by decide, by decide, .inl ?_⟩, by decide⟩
  show (List.replicate 239 0x5A#8).length ≠ 240
  rw [List.length_replicate]; decide

theorem witness_DestroySavesWhenDirty :
    (calling (inState .writeRegs 3 0x2D 0xFF true true) [.destroy true]).Inv ∧
    (inState .writeRegs 3 0x2D 0xFF true true).live = true ∧
    (calling (inState .writeRegs 3 0x2D 0xFF true true) [.destroy true]).inputs = [.destroy true] ∧
    Memory.read (inState .writeRegs 3 0x2D 0xFF true true).ctx.ram 0 ≠
      Memory.read (inState .writeRegs 3 0x2D 0xFF true true).ctx.baselineRam 0 ∧
    ∃ t, step (calling (inState .writeRegs 3 0x2D 0xFF true true) [.destroy true]) = .next t ∧
      t.saveCall ≠ none :=
  ⟨inState_inv _ _ _ _ _ _ _ rfl, rfl, rfl, by decide, _, rfl, by decide⟩

/-- A fresh instance without an image, unmutated. -/
def created0 : State := { State.reset with params := params 16 }

theorem created0_inv (calls : List Input) : (calling created0 calls).Inv where
  ramSize := by show 1 ≤ 16 ∧ 16 ≤ 240; decide
  pointer := by show (0#8 : Byte).toNat < 32; decide
  bitCount := rfl
  ram := rfl
  baselineRam := rfl
  timeSlots := fun _ _ _ => rfl

theorem witness_PersistenceRoundTrip :
    ((calling (inState .idle 0 0 0 true true) [.destroy true, .create (inState .idle 0 0 0 true true).params]).Inv ∧
      (inState .idle 0 0 0 true true).live = true ∧
      (inState .idle 0 0 0 true true).ctx.ram ≠ (inState .idle 0 0 0 true true).ctx.baselineRam) ∧
    ((calling (created0) [.destroy true]).live = true ∧ created0.ctx.ram = created0.ctx.baselineRam ∧
      created0.ctx.registers = created0.ctx.baselineRegisters ∧
      created0.ctx.offset = created0.ctx.baselineOffset ∧ (calling created0 [.destroy true]).Inv) ∧
    (calling (inState .idle 0 0 0 true true) [.destroy false]).inputs = [.destroy false] :=
  ⟨⟨inState_inv _ _ _ _ _ _ _ rfl, rfl, by decide⟩, ⟨rfl, rfl, rfl, rfl, created0_inv [.destroy true]⟩, rfl⟩

theorem witness_StoredByName :
    (dead [.persist "rtc" (some (image 240 16))]).inputs = [.persist "rtc" (some (image 240 16))] ∧
    (calling State.reset [.persist "rtc" none]).inputs = [.persist "rtc" none] := ⟨rfl, rfl⟩

/-- A creation loads by its own name, with the sizes it asks for (R260, R262). -/
theorem test_create_loads_by_name :
    andThen (step { creating (params 1) "rtc" (image 1 16) with
        stored := [("other", image 2 2), ("rtc", image 1 16)] }) (fun t =>
      .next { dead [] with ctx := t.ctx, loadCall := t.loadCall }) =
    .next { dead [] with
      ctx := Context.initial [(0, 0x5A)] (Vector.replicate 16 0x80#8) (-35)
      loadCall := some { deviceName := "rtc", ramSize := 1, registerSize := 16 } } := rfl

/-- A save is found under its own name and under no other (R262, R264). -/
theorem test_save_stores_by_name :
    ∃ t c, step (calling (inState .idle 0 0 0 true true) [.destroy true]) = .next t ∧ t.saveCall = some c ∧
      Store.find t.stored (inState .idle 0 0 0 true true).params.deviceName = some c.image ∧
      Store.find t.stored "other" = none :=
  ⟨_, _, rfl, rfl, rfl, rfl⟩

theorem witness_RedundantSets :
    (inState .idle 0 0 0 false false).ctx.clockLine = false ∧ (inState .idle 0 0 0 true true).ctx.clockLine = true ∧
    (inState .idle 0 0 0 false false).ctx.dataLine = false ∧ (inState .idle 0 0 0 true true).ctx.dataLine = true :=
  ⟨rfl, rfl, rfl, rfl⟩

theorem witness_ClockRises : (inState .readRegs 7 0x37 0 false true).ctx.clockLine = false := rfl

theorem witness_ClockFalls : (inState .writeRegs 7 0x2D 0 true true).ctx.clockLine = true := rfl

theorem witness_LineCallsRunTheirRow :
    decode .clk (linePattern true false true) = .ok (.clkFall true) ∧
    (inState .idle 0 0 0 true true).ctx.clockLine = true ∧ (inState .idle 0 0 0 true true).ctx.dataLine = true ∧
    decode .dat (linePattern true false true) = .ok .datStart := ⟨rfl, rfl, rfl, rfl⟩

theorem witness_DataMovesWithClockLow :
    ((inState .writeRegs 3 0 0 false false).ctx.clockLine = false ∧
      (inState .writeRegs 3 0 0 false false).ctx.dataLine = false) ∧
    ((inState .writeRegs 3 0 0 false true).ctx.clockLine = false ∧
      (inState .writeRegs 3 0 0 false true).ctx.dataLine = true) := ⟨⟨rfl, rfl⟩, rfl, rfl⟩

theorem witness_StartCondition :
    (inState .writeRegs 3 0 0 true true).ctx.clockLine = true ∧
    (inState .writeRegs 3 0 0 true true).ctx.dataLine = true := ⟨rfl, rfl⟩

theorem witness_StopCondition :
    (inState .startWait 0 0 0 true false).ctx.clockLine = true ∧
    (inState .startWait 0 0 0 true false).ctx.dataLine = false := ⟨rfl, rfl⟩

theorem witness_ReadDataLevel :
    ((inState .readRegs 7 0x37 0 false true).ctx.protocolState = .readRegs ∧
      (inState .readRegs 7 0x37 0 false true).ctx.bitCount < 8) ∧
    (inState .readAck 8 0x37 0 false true).ctx.protocolState ∈
      [.addressWriteAck, .addressReadAck, .regNrAck, .writeAck, .readAck] ∧
    (inState .writeRegs 0 0 0 false true).ctx.protocolState ∈
      [.idle, .startWait, .getAddress, .getRegNr, .writeRegs] := by
  refine ⟨⟨rfl, by decide⟩, by decide, by decide⟩

theorem witness_IdleClockEdge :
    (inState .idle 8 0xA2 0 true false).ctx.protocolState = .idle ∧
    (inState .idle 8 0xA2 0 true false).ctx.clockLine = true := ⟨rfl, rfl⟩

theorem witness_AddressByteReceived :
    (inState .getAddress 6 0x28 0 true false).ctx.bitCount < 7 ∧
    (inState .getAddress 7 0x50 0 true true).ctx.bitCount = 7 := by
  refine ⟨by decide, rfl⟩

theorem witness_PointerByteReceived :
    (inState .getRegNr 6 0x28 0 true false).ctx.bitCount < 7 ∧
    (inState .getRegNr 7 0x7F 0 true true).ctx.bitCount = 7 := by
  refine ⟨by decide, rfl⟩

theorem witness_SentBitCounted :
    (inState .readRegs 6 0x28 0 true false).ctx.bitCount < 7 ∧
    (inState .readRegs 7 0x7F 0 true true).ctx.bitCount = 7 := by
  refine ⟨by decide, rfl⟩

theorem witness_MasterAcknowledges :
    (inState .readAck 8 0x28 0 true true).ctx.dataLine = true ∧
    (inState .readAck 8 0x28 0xFF true false).ctx.dataLine = false ∧
    1 ≤ (inState .readAck 8 0x28 0xFF true false).params.ramSize ∧
    (inState .readAck 8 0x28 0xFF true false).params.ramSize ≤ 240 := by
  refine ⟨rfl, rfl, by decide, by decide⟩

theorem witness_ReadTransferLoadsByte :
    (inState .addressReadAck 8 0xA1 0xFF true true).ctx.registerPointer.toNat <
      (inState .addressReadAck 8 0xA1 0xFF true true).addrSpace := by decide

theorem witness_DataByteReceived :
    (inState .writeRegs 6 0x28 0 true false).ctx.bitCount < 7 ∧
    (inState .writeRegs 7 0x28 0xFF true false).ctx.bitCount = 7 ∧
    1 ≤ (inState .writeRegs 7 0x28 0xFF true false).params.ramSize ∧
    (inState .writeRegs 7 0x28 0xFF true false).params.ramSize ≤ 240 ∧
    (inState .writeRegs 7 0x28 0xFF true false).ctx.registerPointer.toNat <
      (inState .writeRegs 7 0x28 0xFF true false).addrSpace := by
  refine ⟨by decide, rfl, by decide, by decide, by decide⟩

theorem witness_BankReads :
    decode .raddr 0x0F#8 = .ok .rAlarmTimer ∧ decode .raddr 0x10#8 = .ok (.rRam16To31 0) ∧
    decode .raddr 0xFF#8 = .ok (.rRam128To255 127) ∧
    (0xFF#8 : Byte).toNat < (inState .readRegs 0 0 0 true true).addrSpace := by
  refine ⟨rfl, rfl, rfl, by decide⟩

theorem witness_RamWrites :
    decode .waddr 0x10#8 = .ok (.wRam16To31 0) ∧ decode .waddr 0xFF#8 = .ok (.wRam128To255 127) ∧
    16 ≤ (0x10#8 : Byte).toNat ∧ (0xFF#8 : Byte).toNat < (inState .writeRegs 8 0 0 true true).addrSpace ∧
    Memory.wf (inState .writeRegs 8 0 0 true true).ctx.ram = true := by
  refine ⟨rfl, rfl, by decide, by decide, rfl⟩

/-- An instance with one byte of RAM, whose address space ends at 16. -/
def smallest : State := { State.reset with params := params 1 }

theorem witness_RamRowsOutsideSpaceFault :
    Instr.ramAddress (.wRam16To31 1) = some 0x11#8 ∧ smallest.addrSpace ≤ (0x11#8 : Byte).toNat := by
  refine ⟨rfl, by decide⟩

theorem witness_AlarmWrites :
    8 ≤ (8 : Fin 16).val ∧ decode .waddr (BitVec.ofNat 8 (8 : Fin 16).val) = .ok .wAlarmControl ∧
    8 ≤ (15 : Fin 16).val ∧ decode .waddr (BitVec.ofNat 8 (15 : Fin 16).val) = .ok .wAlarmTimer := by
  refine ⟨by decide, rfl, by decide, rfl⟩

theorem witness_IgnoredWrites :
    (inState .writeRegs 7 0x2D 1 true true).ctx.bitCount = 7 ∧
    1 ≤ (inState .writeRegs 7 0x2D 1 true true).params.ramSize ∧
    (inState .writeRegs 7 0x2D 1 true true).params.ramSize ≤ 240 ∧
    (inState .writeRegs 7 0x2D 1 true true).ctx.registerPointer = 1#8 ∧
    (inState .writeRegs 7 0x2D 7 true true).ctx.registerPointer = 7#8 := by decide

theorem witness_ControlWrite :
    (clockAt true 1005 1500 0x04).ctx.shiftRegister.getLsbD 7 = false ∧
    (clockAt true 1005 1500 0x04).ctx.halted = true := ⟨rfl, rfl⟩

theorem witness_TimeIsContinuous :
    (clockAt false 0 1000 0x80).ctx.halted = false ∧
    (clockAt false 0 1000 0x80).ctx.shiftRegister.getLsbD 7 = true ∧
    (0x7F#8 : Byte).getLsbD 7 = false := ⟨rfl, rfl, rfl⟩

theorem witness_HourWrite :
    (128 ≤ (clockAt true 0 0 0xD2).ctx.shiftRegister.toNat ∧
      (0x32#8 : Byte).toNat = (clockAt true 0 0 0xD2).ctx.shiftRegister.toNat % 32 +
        32 * ((clockAt true 0 0 0xD2).ctx.shiftRegister.toNat / 64 % 2)) ∧
    ((clockAt true 0 0 0x7F).ctx.shiftRegister.toNat < 128 ∧
      (0x3F#8 : Byte).toNat = (clockAt true 0 0 0x7F).ctx.shiftRegister.toNat % 64) := by
  decide

theorem witness_YearDateWrite :
    (0x15#8 : Byte).toNat = (clockAt true 1709218800 7 0x55).ctx.shiftRegister.toNat % 64 ∧
    (0x19#8 : Byte).toNat =
      ((clockAt true 1709218800 7 0x55).timeBackend.get .year
        ((clockAt true 1709218800 7 0x55).timeBackend.setLatched .dayOfMonth 0x15#8 true
          (clockAt true 1709218800 7 0x55).virtualNow) false).toNat / 4 * 4 +
        (clockAt true 1709218800 7 0x55).ctx.shiftRegister.toNat / 64 := by
  decide

theorem witness_WeekdayMonthWrite :
    (0x03#8 : Byte).toNat = (clockAt true 0 7 0xE3).ctx.shiftRegister.toNat % 32 ∧
    (0x06#8 : Byte).toNat = ((clockAt true 0 7 0xE3).ctx.shiftRegister.toNat / 32 + 6) % 7 := by
  decide

theorem witness_SecondsReadBack :
    (59 : Nat) < 60 ∧ (clockAt false 0 1000 0x59).ctx.shiftRegister = bcd 59 := by decide

theorem witness_HourReadsBack :
    (23 : Nat) < 24 ∧
    (clockAt false 0 1000 0xD1).ctx.shiftRegister =
      (0x80#8 ||| (if 12 ≤ 23 then 0x40#8 else 0#8) ||| bcd (if 23 % 12 = 0 then 12 else 23 % 12)) ∧
    (clockAt false 0 1000 0x23).ctx.shiftRegister = bcd 23 := by decide

/-- 2024-01-10 10:00:00, halted, and the byte for day 31 and year place 3. -/
def january : State := clockAt true 1704880800 7 0xF1

theorem witness_DateReadsBack :
    (january.ctx.shiftRegister.toNat = 64 * 3 + (bcd 31).toNat ∧
      january.timeBackend.DateExists .dayOfMonth 31 january.virtualNow ∧
      january.timeBackend.number .year
        (january.timeBackend.setLatched .dayOfMonth (bcd 31) true january.virtualNow) / 4 * 4 + 3 = 27 ∧
      january.timeBackend.DateExists .year 27
        (january.timeBackend.setLatched .dayOfMonth (bcd 31) true january.virtualNow)) ∧
    january.ctx.shiftRegister.toNat / 32 = 6 + 1 ∧
    (0x11#8 : Byte).toNat = january.ctx.shiftRegister.toNat % 32 ∧
    january.timeBackend.MovesToWeekday 6
      (january.timeBackend.setLatched .month 0x11#8 true january.virtualNow)
      (january.timeBackend.setLatched .month 0x11#8 true january.virtualNow + 518400) := by
  refine ⟨⟨by decide, ⟨1706695200, (referenceBackend_sameCentury _ _).2 (by decide), ?_⟩, by decide,
    ⟨1801389600, (referenceBackend_sameCentury _ _).2 (by decide), ?_⟩⟩, by decide, by decide, ?_⟩
  · unfold TimeBackend.Replaces; decide
  · unfold TimeBackend.Replaces; decide
  · unfold TimeBackend.MovesToWeekday; decide

/-- The months of `TB_ref`: no 31 April, and 29 February in 2000 and 2024, not in 1900 and 2023 (R245). -/
theorem test_daysInMonth :
    daysInMonth 2023 4 = 30 ∧ daysInMonth 2000 2 = 29 ∧ daysInMonth 1900 2 = 28 ∧ daysInMonth 2024 2 = 29 ∧
      daysInMonth 2023 2 = 28 ∧ daysInMonth 2023 12 = 31 := by decide

/-- The calendar of `TB_ref` with setters that do nothing to one field of the date does not meet the
contract: the day to 2, the month to 2 and the year to 71 are asked for from 1970-01-01 (R240, R242). -/
theorem test_contract_asks_for_dates (f : Field) (h : f ∈ [Field.dayOfMonth, .month, .year]) :
    ¬({ referenceBackend with
        setLatched := fun g v b t => if g = f then t else referenceSetField g v b t } : TimeBackend).Conforms := by
  intro hc
  have key : ∀ (n : Nat) (t₀ : Int), f.inRange n = true → referenceYear t₀ / 100 = referenceYear 0 / 100 →
      referenceBackend.Replaces [.dayOfMonth, .month, .year] f n 0 t₀ →
      referenceBackend.number f 0 = n := by
    intro n t₀ hn hy hr
    have := hc.set_date f n true 0 h hn ⟨t₀, (referenceBackend_sameCentury _ _).2 hy, hr⟩ f
      (by fin_cases h <;> decide)
    rw [TimeBackend.numberWith_same] at this
    simp only [if_true] at this
    exact this
  fin_cases h
  · exact absurd (key 2 86400 rfl (by decide) (by unfold TimeBackend.Replaces; decide)) (by decide)
  · exact absurd (key 2 2678400 rfl (by decide) (by unfold TimeBackend.Replaces; decide)) (by decide)
  · exact absurd (key 71 31536000 rfl (by decide) (by unfold TimeBackend.Replaces; decide)) (by decide)

/-- The contract fixes no year base: the calendar of the Buddhist era meets it. -/
theorem test_contract_admits_other_era : (eraBackend 543).Conforms := eraBackend_conforms 543

theorem witness_SnapshotOnlyAtStart :
    ¬(calling (inState .idle 0 0 0 true true) [.bus 0x00#8 clock0]).callsStart ∧
    ¬(calling (inState .idle 0 0 0 true true) [.bus 0x00#8 clock0]).callsCreate ∧
    ∃ t, step (calling (inState .idle 0 0 0 true true) [.bus 0x00#8 clock0]) = .next t := by
  refine ⟨fun h => ?_, fun h => ?_, _, rfl⟩
  · obtain ⟨⟨-, -, _, _, h⟩, -⟩ := h; cases h
  · obtain ⟨_, _, h⟩ := h; cases h

theorem witness_WhatABusOperationReaches :
    (calling (inState .readAck 8 0 0xFF true false) [.bus 0x00#8 clock0]).calls 0x00#8 ∧
    ¬(calling (inState .readAck 8 0 0xFF true false) [.bus 0x00#8 clock0]).callsWrite ∧
    ∃ t, step (calling (inState .readAck 8 0 0xFF true false) [.bus 0x00#8 clock0]) = .next t ∧
      t.ctx.registerPointer ≠ 0xFF#8 := by
  refine ⟨⟨rfl, by decide, _, _, rfl⟩, fun h => ?_, _, rfl, by decide⟩
  cases h.2.1

theorem witness_HostClockSeenOnlyWhenQueried :
    (calling (inState .writeRegs 7 0x2D 0x10 true true) [.bus 0x00#8 clock0]).Inv ∧
    (inState .writeRegs 7 0x2D 0x10 true true).live = true ∧ (0x00#8 : Byte).toNat ≤ 4 ∧
    ¬(calling (inState .writeRegs 7 0x2D 0x10 true true) [.bus 0x00#8 clock0]).queriesCs ∧
    ¬(calling (inState .writeRegs 7 0x2D 0x10 true true) [.bus 0x00#8 clock0]).queriesNow ∧
    (calling (inState .writeRegs 7 0x40 0x00 true true) [.bus 0x00#8 clock0]).queriesNow ∧
    (calling (inState .writeRegs 7 0x2D 0x06 true true) [.bus 0x00#8 clock0]).queriesNow ∧
    (calling (inState .idle 0 0 0 true true) [.bus 0x02#8 clock0]).queriesCs := by
  refine ⟨inState_inv _ _ _ _ _ _ _ rfl, rfl, by decide, fun h => ?_, fun h => ?_,
    .inr (.inl ⟨⟨⟨⟨rfl, by decide, _, _, rfl⟩, rfl⟩, rfl, rfl⟩, rfl, by decide⟩),
    .inr (.inr ⟨⟨⟨⟨rfl, by decide, _, _, rfl⟩, rfl⟩, rfl, rfl⟩, by decide, by decide, rfl⟩),
    ⟨⟨rfl, by decide, _, _, rfl⟩, rfl, rfl⟩⟩
  · obtain ⟨⟨-, -, _, _, h⟩, -⟩ := h; cases h
  · rcases h with h | h | h
    · obtain ⟨⟨⟨-, -, _, _, h⟩, -⟩, -⟩ := h; cases h
    · exact absurd h.2.1 (by decide)
    · exact absurd h.2.2.1 (by decide)

theorem witness_OnlyStartLeavesIdle :
    (inState .idle 8 0xA2 0 true false).ctx.protocolState = .idle ∧
    (calling (inState .idle 8 0xA2 0 true false) [.bus 0x04#8 clock0]).calls 0x04#8 ∧
    ¬(calling (inState .idle 8 0xA2 0 true false) [.bus 0x04#8 clock0]).callsStart := by
  refine ⟨rfl, ⟨rfl, by decide, _, _, rfl⟩, fun h => ?_⟩
  cases h.2.2

theorem witness_LinesForcedIdle :
    (calling (inState .writeRegs 7 0x2D 0xFF true true) []).Inv ∧
    (inState .writeRegs 7 0x2D 0xFF true true).live = true := ⟨inState_inv _ _ _ _ _ _ _ rfl, rfl⟩

/-- A trace with the same host clock throughout. -/
def traceOf (codes : List Byte) : List (Byte × HostClock) := codes.map fun c => (c, clock0)

theorem traceOf_codes (codes : List Byte) : (traceOf codes).map Prod.fst = codes := by
  induction codes <;> simp_all [traceOf]

theorem witness_ReceivedByteIsAssembled :
    (calling (inState .writeRegs 0 0xFF 0xFF false true) []).Inv ∧
    (inState .writeRegs 0 0xFF 0xFF false true).live = true ∧
    (inState .writeRegs 0 0xFF 0xFF false true).ctx.protocolState ∈ [.getAddress, .getRegNr, .writeRegs] ∧
    (inState .writeRegs 0 0xFF 0xFF false true).ctx.bitCount = 0 ∧
    (inState .writeRegs 0 0xFF 0xFF false true).ctx.clockLine = false ∧
    (traceOf (byteCells 0x5A#8)).map Prod.fst = byteCells 0x5A#8 :=
  ⟨inState_inv _ _ _ _ _ _ _ rfl, rfl, by decide, rfl, rfl, traceOf_codes _⟩

theorem witness_SentByteBitByBit :
    (inState .readRegs 0 0x37 0 false true).live = true ∧
    (inState .readRegs 0 0x37 0 false true).ctx.protocolState = .readRegs ∧
    (inState .readRegs 0 0x37 0 false true).ctx.bitCount = 0 ∧
    (inState .readRegs 0 0x37 0 false true).ctx.clockLine = false ∧
    (traceOf (List.replicate 7 [0x01#8, 0x00#8]).flatten).map Prod.fst =
      (List.replicate 7 [0x01#8, 0x00#8]).flatten ∧
    (traceOf (List.replicate 8 [0x01#8, 0x00#8]).flatten).map Prod.fst =
      (List.replicate 8 [0x01#8, 0x00#8]).flatten :=
  ⟨rfl, rfl, rfl, rfl, traceOf_codes _, traceOf_codes _⟩

theorem witness_WriteTransaction :
    (calling (inState .readAck 8 0x37 0xFF true false) []).Inv ∧
    (inState .readAck 8 0x37 0xFF true false).live = true ∧
    (traceOf (startTrace ++ sendByte 0xA0#8 ++ sendByte 0xFF#8 ++ sendByte 0x77#8)).map Prod.fst =
      startTrace ++ sendByte 0xA0#8 ++ sendByte 0xFF#8 ++ sendByte 0x77#8 :=
  ⟨inState_inv _ _ _ _ _ _ _ rfl, rfl, traceOf_codes _⟩

end Sys2Proof.Tests
end

/-! # The pointer and the snapshot across a step

Both statements speak of every state, so the laws here ask for no invariant: they say what a step that
answers a next state did, and take from that what it kept. -/

namespace Sys2Proof.Machine

/-! ### The register bank, from any state -/

/-- The register addresses lie in the address space whatever `RAM_SIZE` is. -/
theorem addrSpace_ge_regSize (s : State) : 16 ≤ s.addrSpace := Nat.le_add_right 16 _

/-- A bank read that answers a next state is one inside the address space. -/
theorem bankRead_inSpace {a : Byte} {s t : State} (h : bankRead a s = .next t) :
    a.toNat < s.addrSpace := by
  by_cases ha : a.toNat < 16
  · exact ha.trans_le (addrSpace_ge_regSize s)
  · rw [bankRead_ram a s (by omega), loadRam] at h
    split at h
    · assumption
    · cases h

/-- A bank read that answers a next state changed `shift_register` alone. -/
theorem bankRead_next {a : Byte} {s t : State} (h : bankRead a s = .next t) :
    t = s.setShiftRegister (s.bankByte a) := by
  rw [bankRead_eq a s (bankRead_inSpace h)] at h
  cases h
  rfl

/-- What a bank write that answers a next state left. -/
theorem bankWrite_next {a : Byte} {s t : State} (h : bankWrite a s = .next t) :
    BankWritten a s t := by
  have hspace : a.toNat < s.addrSpace :=
    (bankWrite_inSpace a s t h).elim (·.trans_le (addrSpace_ge_regSize s)) id
  obtain ⟨u, hu, hw⟩ := bankWrite_spec a s hspace
  rw [hu] at h
  cases h
  exact hw

/-! ### What a step keeps -/

/-- What a step keeps that is neither a START nor a creation, from any state: the parameters and the
snapshot; and the pointer stays, unless it is committed (R65) or incremented (R66). -/
structure StepKept (s t : State) : Prop where
  params : t.params = s.params
  snapshot : t.ctx.readSnapshot = s.ctx.readSnapshot
  pointer : t.ctx.registerPointer = s.ctx.registerPointer ∨
    t.ctx.registerPointer = s.shiftIn.commitPointer.ctx.registerPointer ∨
    t.ctx.registerPointer = s.incrementPointer.ctx.registerPointer

/-- The pointer stays in an address space of 1 to 256 addresses (R35). -/
theorem StepKept.pointer_inSpace {s t : State} (hk : StepKept s t) (h0 : 0 < s.addrSpace)
    (h256 : s.addrSpace ≤ 256) (hp : s.ctx.registerPointer.toNat < s.addrSpace) :
    t.ctx.registerPointer.toNat < s.addrSpace := by
  rcases hk.pointer with h | h | h <;> rw [h]
  · exact hp
  · rw [commitPointer_toNat]
    exact Nat.mod_lt _ h0
  · rw [incrementPointer_toNat s h0 h256]
    exact Nat.mod_lt _ h0

/-! ### The falling clock edge -/

theorem execFallGetAddress_kept {s t : State} (h : execFallGetAddress s = .next t) :
    StepKept s t := by
  by_cases h7 : s.ctx.bitCount = 7
  · rw [execFallGetAddress_eighth s h7, selectAddress_spec] at h
    cases h
    exact ⟨rfl, rfl, .inl rfl⟩
  · rw [execFallGetAddress_early s h7] at h
    cases h
    exact ⟨rfl, rfl, .inl rfl⟩

theorem execFallGetRegNr_kept {s t : State} (h : execFallGetRegNr s = .next t) :
    StepKept s t := by
  by_cases h7 : s.ctx.bitCount = 7
  · rw [execFallGetRegNr_eighth s h7] at h
    cases h
    exact ⟨rfl, rfl, .inr (.inl rfl)⟩
  · rw [execFallGetRegNr_early s h7] at h
    cases h
    exact ⟨rfl, rfl, .inl rfl⟩

theorem execFallReadRegs_kept {s t : State} (h : execFallReadRegs s = .next t) :
    StepKept s t := by
  by_cases h7 : s.ctx.bitCount = 7
  · rw [execFallReadRegs_eighth s h7] at h
    cases h
    exact ⟨rfl, rfl, .inl rfl⟩
  · rw [execFallReadRegs_early s h7] at h
    cases h
    exact ⟨rfl, rfl, .inl rfl⟩

theorem execFallAddressReadAck_kept {s t : State} (h : execFallAddressReadAck s = .next t) :
    StepKept s t := by
  obtain ⟨u, hu, ht⟩ := (andThen_eq_next _ _ _).1 h
  cases bankRead_next hu
  cases ht
  exact ⟨rfl, rfl, .inl rfl⟩

theorem execFallReadAck_kept {s t : State} (h : execFallReadAck s = .next t) : StepKept s t := by
  cases hd : s.ctx.dataLine with
  | true =>
    rw [execFallReadAck_nack s hd] at h
    cases h
    exact ⟨rfl, rfl, .inl rfl⟩
  | false =>
    simp only [execFallReadAck, hd, Bool.false_eq_true, if_false] at h
    obtain ⟨u, hu, ht⟩ := (andThen_eq_next _ _ _).1 h
    cases bankRead_next hu
    cases ht
    exact ⟨rfl, rfl, .inr (.inr rfl)⟩

theorem execFallWriteRegs_kept {s t : State} (h : execFallWriteRegs s = .next t) :
    StepKept s t := by
  by_cases h7 : s.ctx.bitCount = 7
  · rw [execFallWriteRegs_eighth s h7] at h
    obtain ⟨u, hu, ht⟩ := (andThen_eq_next _ _ _).1 h
    have hframe : u = s.shiftIn.withBank u := (bankWrite_next hu).frame
    cases ht
    rw [hframe]
    exact ⟨rfl, rfl, .inr (.inr rfl)⟩
  · rw [execFallWriteRegs_early s h7] at h
    cases h
    exact ⟨rfl, rfl, .inl rfl⟩

/-- A falling clock edge keeps the snapshot in every protocol state: it commits the pointer in
`GET_REG_NR` and increments it in `READ_ACK` and `WRITE_REGS` only. -/
theorem fallingEdge_kept {s t : State} (h : fallingEdge s = .next t) : StepKept s t := by
  unfold fallingEdge at h
  cases hq : s.ctx.protocolState <;> rw [hq] at h
  case getAddress => exact execFallGetAddress_kept h
  case addressReadAck => exact execFallAddressReadAck_kept h
  case getRegNr => exact execFallGetRegNr_kept h
  case readRegs => exact execFallReadRegs_kept h
  case readAck => exact execFallReadAck_kept h
  case writeRegs => exact execFallWriteRegs_kept h
  case idle | startWait | addressWriteAck | regNrAck | writeAck =>
    cases h
    exact ⟨rfl, rfl, .inl rfl⟩

/-! ### The bus operations -/

/-- The state a START leaves (R128). -/
def State.started (s : State) : State :=
  (s.setDataLine false).buildSnapshot.resetShift.setProtocol .startWait

/-- A `set_clock` call that answers a next state stored the level, or is a falling edge (R110 to
R112). -/
theorem setClock_next_cases {level : Level} {s t : State} (h : setClock level s = .next t) :
    t = s.setClockLine level ∨
      (level = false ∧ s.ctx.clockLine = true ∧ fallingEdge (s.setClockLine false) = .next t) := by
  have hsame : s.setClockLine s.ctx.clockLine = s := rfl
  unfold setClock at h
  split at h <;> rename_i hc
  · rw [hc] at hsame
    cases h
    exact .inl hsame.symm
  · rw [hc] at hsame
    cases h
    exact .inl hsame.symm
  · cases h
    exact .inl rfl
  · exact .inr ⟨rfl, hc, h⟩

/-- A `set_data` call that answers a next state stored the level, or is a STOP, or a START (R126 to
R129). -/
theorem setData_next_cases {level : Level} {s t : State} (h : setData level s = .next t) :
    t = s.setDataLine level ∨
      (level = true ∧ s.ctx.clockLine = true ∧ s.ctx.dataLine = false ∧
        t = (s.setDataLine true).abort) ∨
      (level = false ∧ s.ctx.clockLine = true ∧ s.ctx.dataLine = true ∧ t = s.started) := by
  have hsame : s.setDataLine s.ctx.dataLine = s := rfl
  unfold setData at h
  split at h <;> rename_i hd
  · rw [hd] at hsame
    cases h
    exact .inl hsame.symm
  · rw [hd] at hsame
    cases h
    exact .inl hsame.symm
  · split at h <;> cases h
    · exact .inr (.inl ⟨rfl, ‹_›, hd, rfl⟩)
    · exact .inl rfl
  · split at h <;> cases h
    · exact .inr (.inr ⟨rfl, ‹_›, hd, rfl⟩)
    · exact .inl rfl

theorem setClock_kept {level : Level} {s t : State} (h : setClock level s = .next t) :
    StepKept s t := by
  rcases setClock_next_cases h with rfl | ⟨-, -, hfall⟩
  · exact ⟨rfl, rfl, .inl rfl⟩
  · obtain ⟨hparams, hsnapshot, hpointer⟩ := fallingEdge_kept hfall
    exact ⟨hparams, hsnapshot, hpointer⟩

theorem setData_kept_or_start {level : Level} {s t : State} (h : setData level s = .next t) :
    StepKept s t ∨
      (level = false ∧ s.ctx.clockLine = true ∧ s.ctx.dataLine = true ∧ t = s.started) := by
  rcases setData_next_cases h with rfl | ⟨-, -, -, rfl⟩ | hstart
  · exact .inl ⟨rfl, rfl, .inl rfl⟩
  · exact .inl ⟨rfl, rfl, .inl rfl⟩
  · exact .inr hstart

/-- The instruction of each event code (R104). -/
theorem decodeEv_cases {code : Byte} {i : Instr} (h : decode .ev code = .ok i) :
    (code = 0x00#8 ∧ i = .c0) ∨ (code = 0x01#8 ∧ i = .c1) ∨ (code = 0x02#8 ∧ i = .d0) ∨
      (code = 0x03#8 ∧ i = .d1) ∨ (code = 0x04#8 ∧ i = .r) := by
  unfold decode decodeEv at h
  split_ifs at h <;> cases h <;> simp_all

/-- Of the bus operations only a START, `set_data(0)` with both lines high, builds a snapshot. -/
theorem exec_event_kept_or_start {code : Byte} {i : Instr} {s t : State}
    (hd : decode .ev code = .ok i) (h : exec i s = .next t) :
    StepKept s t ∨
      (code = 0x02#8 ∧ s.ctx.clockLine = true ∧ s.ctx.dataLine = true ∧ t = s.started) := by
  rcases decodeEv_cases hd with ⟨-, rfl⟩ | ⟨-, rfl⟩ | ⟨hcode, rfl⟩ | ⟨-, rfl⟩ | ⟨-, rfl⟩
  · exact .inl (setClock_kept (level := false) h)
  · exact .inl (setClock_kept (level := true) h)
  · exact (setData_kept_or_start (level := false) h).imp_right fun ⟨_, hstart⟩ => ⟨hcode, hstart⟩
  · exact (setData_kept_or_start (level := true) h).imp_right fun ⟨hlevel, _⟩ => by cases hlevel
  · cases h
    exact .inl ⟨rfl, rfl, .inl rfl⟩

/-! ### The step -/

/-- A destruction leaves the Context and the parameters (R264). -/
theorem destroy_ctx_params {b : Bool} {s t : State} (h : destroy b s = .next t) :
    t.ctx = s.ctx ∧ t.params = s.params := by
  obtain ⟨-, rfl⟩ := destroy_next_cases b s t h
  split <;> exact ⟨rfl, rfl⟩

/-- A creation leaves the pointer at 0 (R44). -/
theorem create_pointer_inSpace {p : Params} {s t : State} (h : create p s = .next t) :
    t.ctx.registerPointer.toNat < t.addrSpace := by
  have hpointer : t.ctx.registerPointer = 0 := by
    obtain ⟨-, -, -, ⟨-, rfl⟩ | ⟨g, -, -, hr, rfl⟩⟩ := create_next_cases p s t h <;> rfl
  rw [hpointer]
  exact Nat.lt_of_lt_of_le (by decide) (addrSpace_ge_regSize t)

/-- What every step that answers a next state is: a creation, a START, which keeps the parameters and
the pointer, or one of those that keep the snapshot too. -/
theorem step_kept_or_start_or_create {s t : State} (h : step s = .next t) :
    StepKept s t ∨
      (s.callsStart ∧ t.params = s.params ∧ t.ctx.registerPointer = s.ctx.registerPointer) ∨
      (s.callsCreate ∧ t.ctx.registerPointer.toNat < t.addrSpace) := by
  rcases step_next_cases s t h with ⟨-, rfl⟩ | ⟨code, c, rest, i, hlive, hin, hd, hexec⟩ |
    ⟨p, rest, hin, hcreate⟩ | ⟨b, rest, -, hdestroy⟩ | ⟨name, image, rest, -, rfl⟩
  · exact .inl ⟨rfl, rfl, .inl rfl⟩
  · rcases exec_event_kept_or_start hd hexec with ⟨hparams, hsnapshot, hpointer⟩ |
      ⟨rfl, hclock, hdata, rfl⟩
    · exact .inl ⟨hparams, hsnapshot, hpointer⟩
    · exact .inr (.inl ⟨⟨⟨hlive, by decide, c, rest, hin⟩, hclock, hdata⟩, rfl, rfl⟩)
  · exact .inr (.inr ⟨⟨p, rest, hin⟩, create_pointer_inSpace hcreate⟩)
  · obtain ⟨hctx, hparams⟩ := destroy_ctx_params hdestroy
    exact .inl ⟨hparams, by rw [hctx]; rfl, .inl (by rw [hctx]; rfl)⟩
  · exact .inl ⟨rfl, rfl, .inl rfl⟩

/-- The address space of equal parameters is the same. -/
theorem addrSpace_of_params_eq {s t : State} (h : t.params = s.params) :
    t.addrSpace = s.addrSpace := by
  rw [State.addrSpace, h, State.addrSpace]

/-- From a legal `RAM_SIZE`, a step keeps the pointer in the address space. -/
theorem step_pointer_inSpace {s t : State} (h1 : 1 ≤ s.params.ramSize) (h240 : s.params.ramSize ≤ 240)
    (hp : s.ctx.registerPointer.toNat < s.addrSpace) (h : step s = .next t) :
    t.ctx.registerPointer.toNat < t.addrSpace := by
  have hspace : s.addrSpace = 16 + s.params.ramSize := rfl
  rcases step_kept_or_start_or_create h with hk | ⟨-, hparams, hpointer⟩ | ⟨-, hcreated⟩
  · rw [addrSpace_of_params_eq hk.params]
    exact hk.pointer_inSpace (by omega) (by omega) hp
  · rw [addrSpace_of_params_eq hparams, hpointer]
    exact hp
  · exact hcreated

/-! ### The obligations -/

/-- Settles O11: a creation puts the pointer at 0, and every other step keeps it, commits it modulo
`ADDR_SPACE` or increments it modulo `ADDR_SPACE`. -/
theorem pointerStaysInRange : Obligations.PointerStaysInRange := by
  refine ⟨by decide, fun s t ⟨p, rest, hin⟩ h => ?_, fun s t h1 h240 hp h =>
    step_pointer_inSpace h1 h240 hp h⟩
  simp only [step, fetch, hin] at h
  exact create_pointer_inSpace h

/-- Settles O51: of the steps that are no creation, only a START builds a snapshot. -/
theorem snapshotOnlyAtStart : Obligations.SnapshotOnlyAtStart := by
  intro s t hstart hcreate h
  rcases step_kept_or_start_or_create h with hk | ⟨hs, -, -⟩ | ⟨hc, -⟩
  · exact hk.snapshot
  · exact absurd hs hstart
  · exact absurd hc hcreate

end Sys2Proof.Machine

/-! # The line edges and the clock line

What a line call does by the stored level and its argument, and that no row of the protocol state reads
the clock line: a row run with the clock line set is the row with the clock line set in what it leaves. -/

namespace Sys2Proof.Machine

/-! ### The line calls -/

/-- A redundant `set_clock` (R110). -/
theorem setClock_same {level : Level} {s : State} (h : s.ctx.clockLine = level) :
    setClock level s = .next s := by
  cases level <;> simp only [setClock, h] <;> rfl

/-- A rising clock edge (R111). -/
theorem setClock_rise {s : State} (h : s.ctx.clockLine = false) :
    setClock true s = .next (s.setClockLine true) := by
  simp only [setClock, h]; rfl

/-- A falling clock edge is the row of the protocol state, with the clock line low (R112). -/
theorem setClock_fall {s : State} (h : s.ctx.clockLine = true) :
    setClock false s = exec s.ctx.protocolState.row (s.setClockLine false) := by
  simp only [setClock, h]
  exact fallingEdge_eq_row (s.setClockLine false)

/-- A redundant `set_data` (R126). -/
theorem setData_same {level : Level} {s : State} (h : s.ctx.dataLine = level) :
    setData level s = .next s := by
  cases level <;> simp only [setData, h] <;> rfl

/-- A data edge with the clock low (R127). -/
theorem setData_clockLow {level : Level} {s : State} (hc : s.ctx.clockLine = false)
    (hd : s.ctx.dataLine ≠ level) : setData level s = .next (s.setDataLine level) := by
  have hd' : s.ctx.dataLine = !level := Bool.eq_not.2 hd
  cases level <;> simp only [setData, hd', hc] <;> rfl

/-! ### The level read -/

/-- In `READ_REGS` the level read is the current bit of the byte being sent (R133). -/
theorem execR_readRegs {s : State} (h : s.ctx.protocolState = .readRegs) :
    exec .r s = .next (s.setResult (s.ctx.shiftRegister.getLsbD (7 - s.ctx.bitCount))) := by
  have hdriven : s.ctx.drivenLevel = s.ctx.shiftRegister.getLsbD (7 - s.ctx.bitCount) := if_pos h
  rw [← hdriven]
  rfl

/-! ### Operations that do not read the clock line -/

/-- A result with the clock line of its next state set. -/
def setClockAfter (x : Level) (r : Result) : Result :=
  andThen r fun t => .next (t.setClockLine x)

/-- An operation neither reads nor writes the clock line: setting it before or after is the same. -/
def ClockBlind (f : State → Result) : Prop :=
  ∀ (s : State) (x : Level), f (s.setClockLine x) = setClockAfter x (f s)

/-- An operation that does not read the clock line, after a result with the clock line set. -/
theorem ClockBlind.andThen_setClockAfter {f : State → Result} (hf : ClockBlind f) (r : Result)
    (x : Level) : andThen (setClockAfter x r) f = setClockAfter x (andThen r f) := by
  cases r with
  | next t => exact hf t x
  | fault e => rfl
  | refused e => rfl

/-- A field write, with the clock line set before or after (R199). -/
theorem applyField_setClockLine (s : State) (x : Level) (f : Field) (v : Byte) (b : Bool) :
    (s.setClockLine x).applyField f v b = (s.applyField f v b).setClockLine x := by
  unfold State.applyField
  rw [apply_ite (State.setClockLine · x)]
  rfl

/-- A halt, a resume or neither, as the flag and the written byte ask (R191). -/
theorem execWControl_clockBlind : ClockBlind execWControl := by
  intro s x
  cases hrequest : haltRequest s.ctx.shiftRegister <;> cases hhalted : s.ctx.halted <;>
    simp only [execWControl, setClockLine_ctx, hrequest, hhalted] <;> rfl

theorem execWHours_clockBlind : ClockBlind execWHours := by
  intro s x
  have hmode (m : Bool) : (s.setClockLine x).setAmPm m = (s.setAmPm m).setClockLine x := rfl
  simp only [execWHours, hmode, applyField_setClockLine, ← apply_ite (State.setClockLine · x)]
  rfl

theorem execWYearDate_clockBlind : ClockBlind execWYearDate := by
  intro s x
  simp only [execWYearDate, applyField_setClockLine]
  rfl

theorem execWWeekdayMonth_clockBlind : ClockBlind execWWeekdayMonth := by
  intro s x
  simp only [execWWeekdayMonth, applyField_setClockLine]
  rfl

theorem storeRam_clockBlind (a : Byte) : ClockBlind (storeRam a) := by
  intro s x
  unfold storeRam
  rw [apply_ite (setClockAfter x)]
  rfl

theorem loadRam_clockBlind (a : Byte) : ClockBlind (loadRam a) := by
  intro s x
  unfold loadRam
  rw [apply_ite (setClockAfter x)]
  rfl

/-- A bank read does not read the clock line (R178). -/
theorem bankRead_clockBlind (a : Byte) : ClockBlind (bankRead a) := by
  intro s x
  by_cases ha : a.toNat < 16
  · have hspace : a.toNat < s.addrSpace := ha.trans_le (addrSpace_ge_regSize s)
    rw [bankRead_eq a s hspace, bankRead_eq a (s.setClockLine x) hspace]
    rfl
  · rw [bankRead_ram a _ (by omega), bankRead_ram a _ (by omega)]
    exact loadRam_clockBlind a s x

/-- A bank write does not read the clock line (R190). -/
theorem bankWrite_clockBlind (a : Byte) : ClockBlind (bankWrite a) := by
  intro s x
  by_cases ha : a.toNat < 16
  · obtain ⟨n, rfl⟩ : ∃ n : Fin 16, a = BitVec.ofNat 8 n.val := ⟨⟨a.toNat, ha⟩, by simp⟩
    clear ha
    fin_cases n
    · exact execWControl_clockBlind s x
    · rfl
    · exact congrArg Host.Outcome.next (applyField_setClockLine s x _ _ _)
    · exact congrArg Host.Outcome.next (applyField_setClockLine s x _ _ _)
    · exact execWHours_clockBlind s x
    · exact execWYearDate_clockBlind s x
    · exact execWWeekdayMonth_clockBlind s x
    all_goals rfl
  · rw [bankWrite_ram a _ (by omega), bankWrite_ram a _ (by omega)]
    exact storeRam_clockBlind a s x

/-! ### The rows of the protocol state -/

/-- The shift logic reset and the next receive state entered (R113). -/
theorem resetShift_setProtocol (s : State) (q : ProtocolState) :
    s.resetShift.setProtocol q =
      { s with ctx := { s.ctx with bitCount := 0, shiftRegister := 0, protocolState := q } } := rfl

theorem execFallGetAddress_clockBlind : ClockBlind execFallGetAddress := by
  intro s x
  by_cases h7 : s.ctx.bitCount = 7
  · rw [execFallGetAddress_eighth s h7, execFallGetAddress_eighth (s.setClockLine x) h7,
      selectAddress_spec, selectAddress_spec]
    rfl
  · rw [execFallGetAddress_early s h7, execFallGetAddress_early (s.setClockLine x) h7]
    rfl

theorem execFallGetRegNr_clockBlind : ClockBlind execFallGetRegNr := by
  intro s x
  by_cases h7 : s.ctx.bitCount = 7
  · rw [execFallGetRegNr_eighth s h7, execFallGetRegNr_eighth (s.setClockLine x) h7]
    rfl
  · rw [execFallGetRegNr_early s h7, execFallGetRegNr_early (s.setClockLine x) h7]
    rfl

theorem execFallReadRegs_clockBlind : ClockBlind execFallReadRegs := by
  intro s x
  by_cases h7 : s.ctx.bitCount = 7
  · rw [execFallReadRegs_eighth s h7, execFallReadRegs_eighth (s.setClockLine x) h7]
    rfl
  · rw [execFallReadRegs_early s h7, execFallReadRegs_early (s.setClockLine x) h7]
    rfl

/-- The end of a read edge: the loaded byte is sent from its first bit (R122, R124). -/
theorem enterReadRegs_clockBlind :
    ClockBlind fun t => .next ((t.setBitCount 0).setProtocol .readRegs) := fun _ _ => rfl

theorem execFallAddressReadAck_clockBlind : ClockBlind execFallAddressReadAck := by
  intro s x
  unfold execFallAddressReadAck
  rw [bankRead_clockBlind]
  exact enterReadRegs_clockBlind.andThen_setClockAfter _ x

theorem execFallReadAck_clockBlind : ClockBlind execFallReadAck := by
  intro s x
  cases hd : s.ctx.dataLine with
  | true =>
    rw [execFallReadAck_nack s hd, execFallReadAck_nack (s.setClockLine x) hd]
    rfl
  | false =>
    have hincrement :
        (s.setClockLine x).incrementPointer = s.incrementPointer.setClockLine x := rfl
    simp only [execFallReadAck, setClockLine_ctx, hd, Bool.false_eq_true, if_false, hincrement]
    rw [bankRead_clockBlind]
    exact enterReadRegs_clockBlind.andThen_setClockAfter _ x

/-- The end of a write: the pointer advances and the byte is acknowledged (R120). -/
theorem enterWriteAck_clockBlind :
    ClockBlind fun t => .next (t.incrementPointer.setProtocol .writeAck) := fun _ _ => rfl

theorem execFallWriteRegs_clockBlind : ClockBlind execFallWriteRegs := by
  intro s x
  by_cases h7 : s.ctx.bitCount = 7
  · have hshift : (s.setClockLine x).shiftIn = s.shiftIn.setClockLine x := rfl
    rw [execFallWriteRegs_eighth s h7, execFallWriteRegs_eighth (s.setClockLine x) h7, hshift,
      bankWrite_clockBlind]
    exact enterWriteAck_clockBlind.andThen_setClockAfter _ x
  · rw [execFallWriteRegs_early s h7, execFallWriteRegs_early (s.setClockLine x) h7]
    rfl

/-- No row of a falling clock edge reads the clock line (R112). -/
theorem row_clockBlind (q : ProtocolState) : ClockBlind (exec q.row) := by
  cases q with
  | getAddress => exact execFallGetAddress_clockBlind
  | addressReadAck => exact execFallAddressReadAck_clockBlind
  | getRegNr => exact execFallGetRegNr_clockBlind
  | readRegs => exact execFallReadRegs_clockBlind
  | readAck => exact execFallReadAck_clockBlind
  | writeRegs => exact execFallWriteRegs_clockBlind
  | idle | startWait | addressWriteAck | regNrAck | writeAck => exact fun _ _ => rfl

/-- `read_data` does not read the clock line (R111). -/
theorem execR_clockBlind : ClockBlind (exec .r) := fun _ _ => rfl

/-! ### The obligations -/

/-- Settles O19: a falling edge is the row of the protocol state, and no row reads the clock line. -/
theorem clockFalls : Obligations.ClockFalls :=
  ⟨fun s _ => ⟨setClock_fall, fallingEdge_eq_row (s.setClockLine false)⟩,
    fun s q x => row_clockBlind q s x⟩

/-- Settles O31: the byte at the pointer is loaded with `bit_count` 0, so bit 7 of it is sent first. -/
theorem readTransferLoadsByte : Obligations.ReadTransferLoadsByte := fun s hp =>
  ⟨_, execFallAddressReadAck_spec s hp, rfl, execR_readRegs rfl⟩

/-- Settles O17: a call with the stored level is a redundant set, and the SAME rows do nothing. -/
theorem redundantSets : Obligations.RedundantSets := fun _ _ =>
  ⟨setClock_same, setClock_same, setData_same, setData_same, rfl, rfl, rfl, rfl⟩

/-- Settles O18: a rising edge stores the level, and `read_data` does not read the clock line. -/
theorem clockRises : Obligations.ClockRises := fun s _ =>
  ⟨setClock_rise, rfl, execR_clockBlind s true⟩

/-- Settles O21: with the clock low a data edge is no START and no STOP. -/
theorem dataMovesWithClockLow : Obligations.DataMovesWithClockLow := fun _ =>
  ⟨fun hc hd => setData_clockLow hc (by simp [hd]), fun hc hd => setData_clockLow hc (by simp [hd]),
    rfl, rfl⟩

/-- Settles O26: `START_WAIT` only moves on, and the three acknowledge states reset the shift logic. -/
theorem edgesWithoutData : Obligations.EdgesWithoutData := fun s =>
  ⟨rfl, congrArg Host.Outcome.next (resetShift_setProtocol s .getRegNr),
    congrArg Host.Outcome.next (resetShift_setProtocol s .writeRegs),
    congrArg Host.Outcome.next (resetShift_setProtocol s .writeRegs)⟩

end Sys2Proof.Machine

/-! # The snapshot of a START

What a START leaves and which bytes its snapshot has, and that a byte written at the address of a
register the chip computes alone (centiseconds, timer-days) only moves the pointer on. -/

namespace Sys2Proof.Machine

/-! ### The START -/

/-- A START completes in every state (R128). -/
theorem exec_datStart (s : State) : exec .datStart s = .next s.started := rfl

/-- The snapshot is built from the state before the START (R160). -/
@[simp] theorem started_readSnapshot (s : State) : s.started.ctx.readSnapshot = s.snapshot := rfl

/-- The stored registers are read, not written (R128). -/
@[simp] theorem started_registers (s : State) : s.started.ctx.registers = s.ctx.registers := rfl

/-! ### The bytes of the snapshot -/

/-- The control byte and the alarm bytes are copied verbatim (R161, R169 to R176). -/
theorem snapshot_stored (s : State) (k : Fin 16) (hk : k.val = 0 ∨ 8 ≤ k.val) :
    s.snapshot[k] = s.ctx.registers[k] := by
  have hslots : k = 0 ∨ k = 8 ∨ k = 9 ∨ k = 10 ∨ k = 11 ∨ k = 12 ∨ k = 13 ∨ k = 14 ∨ k = 15 := by
    omega
  rcases hslots with rfl | rfl | rfl | rfl | rfl | rfl | rfl | rfl | rfl <;> rfl

/-- Timer-days reads zero (R168). -/
theorem snapshot_timerDays (s : State) : s.snapshot[7] = 0x00#8 := rfl

/-- The number of the seconds or of the minutes of a time is below 60 (R237). -/
theorem number_lt_sixty (s : State) (t : Int) {f : Field} (hf : f = .second ∨ f = .minute) :
    s.timeBackend.number f t < 60 := by
  have hrange := (timeBackend_conforms s).number_inRange f t
  rcases hf with rfl | rfl <;> simpa [Field.inRange] using hrange

/-! ### The ignored writes -/

/-- An increment inside the address space does not wrap (R66). -/
theorem incrementPointer_of_lt (s : State) (h : s.ctx.registerPointer.toNat + 1 < s.addrSpace) :
    s.incrementPointer = s.setPointer (s.ctx.registerPointer + 1#8) := by
  rw [State.incrementPointer, Nat.mod_eq_of_lt h, BitVec.ofNat_add, BitVec.ofNat_toNat,
    BitVec.setWidth_eq]

/-- A bank write of the centiseconds or of the timer-days changes nothing (R192, R198). -/
theorem bankWrite_ignored (s : State) (a : Byte) (ha : a = 1#8 ∨ a = 7#8) :
    bankWrite a s = .next s := by
  rcases ha with rfl | rfl <;> rfl

/-- The eighth edge of an ignored byte shifts its last bit in, increments the pointer and acknowledges
(R120). -/
theorem execFallWriteRegs_ignored (s : State) (h7 : s.ctx.bitCount = 7)
    (hp : s.ctx.registerPointer = 1#8 ∨ s.ctx.registerPointer = 7#8) :
    execFallWriteRegs s = .next
      ((s.shiftIn.setPointer (s.ctx.registerPointer + 1#8)).setProtocol .writeAck) := by
  have hspace : s.ctx.registerPointer.toNat + 1 < s.addrSpace := by
    have hregs := addrSpace_ge_regSize s
    rcases hp with hp | hp <;> rw [hp] <;> exact Nat.lt_of_lt_of_le (by decide) hregs
  have hincrement := incrementPointer_of_lt s.shiftIn hspace
  rw [execFallWriteRegs_eighth s h7, bankWrite_ignored _ _ hp, andThen_next, hincrement]
  rfl

/-! ### The obligations -/

/-- Settles O48: both bytes are read from the one virtual time, and the contract of the backend bounds
their numbers. -/
theorem snapshotSecondsMinutes : Obligations.SnapshotSecondsMinutes := by
  intro s
  obtain ⟨-, hsecond, hminute, -⟩ := snapshot_bytes s
  refine ⟨s.started, exec_datStart s, ?_⟩
  simp only [started_readSnapshot]
  exact ⟨rfl, rfl, ⟨_, number_lt_sixty s _ (.inl rfl), hsecond⟩,
    ⟨_, number_lt_sixty s _ (.inr rfl), hminute⟩⟩

/-- Settles O47: a START keeps the registers and copies the control byte and the alarm bytes. -/
theorem snapshotStoredBytes : Obligations.SnapshotStoredBytes := by
  intro s
  refine ⟨s.started, exec_datStart s, started_registers s, ?_⟩
  simp only [started_readSnapshot]
  exact ⟨snapshot_stored s 0 (.inl rfl), fun k hk => snapshot_stored s k (.inr hk)⟩

/-- Settles O37: the two rows leave the state, the snapshot has their bytes from no register, and a byte
received at their addresses only moves the protocol machine and the pointer on. -/
theorem ignoredWrites : Obligations.IgnoredWrites := by
  intro s
  obtain ⟨hcentiseconds, -⟩ := snapshot_bytes s
  exact ⟨rfl, rfl, ⟨s.started, exec_datStart s, snapshot_timerDays s, hcentiseconds⟩,
    fun h7 _ _ hp => ⟨_, execFallWriteRegs_ignored s h7 hp, rfl⟩⟩

end Sys2Proof.Machine

/-! # The bank writes that only store

A byte written to an alarm register or to RAM goes verbatim to its slot: no field of the time is
computed from it, and no flag follows it. -/

namespace Sys2Proof.Machine

/-! ### The rows of a bank write -/

/-- The row that a byte decodes to in the format WADDR is the bank write of that address. -/
theorem exec_of_decode_waddr {a : Byte} {i : Instr} (s : State) (h : decode .waddr a = .ok i) :
    exec i s = bankWrite a s := by
  cases h
  exact (bankWrite_eq_exec a s).symm

/-- A bank write of an alarm register stores the byte in its slot (R202). -/
theorem bankWrite_alarm (n : Fin 16) (s : State) (hn : 8 ≤ n.val) :
    bankWrite (BitVec.ofNat 8 n.val) s = .next (s.setRegister n s.ctx.shiftRegister) := by
  have hslots : n = 8 ∨ n = 9 ∨ n = 10 ∨ n = 11 ∨ n = 12 ∨ n = 13 ∨ n = 14 ∨ n = 15 := by omega
  rcases hslots with rfl | rfl | rfl | rfl | rfl | rfl | rfl | rfl <;> rfl

/-- A bank write of a RAM address inside the address space stores the byte 16 below the address
(R203). -/
theorem bankWrite_ram_inSpace (a : Byte) (s : State) (h16 : 16 ≤ a.toNat)
    (hspace : a.toNat < s.addrSpace) :
    bankWrite a s = .next (s.setRam (a.toNat - 16) s.ctx.shiftRegister) := by
  rw [bankWrite_ram a s h16, storeRam, if_pos hspace]
  rfl

/-! ### What a slot holds after a write -/

/-- The slot that is written holds the byte. -/
theorem setRegister_registers_same (s : State) (n : Fin 16) (x : Byte) :
    (s.setRegister n x).ctx.registers[n] = x :=
  Vector.getElem_set_self n.isLt

/-- Every other slot holds what it held. -/
theorem setRegister_registers_other (s : State) {m n : Fin 16} (x : Byte) (hmn : m ≠ n) :
    (s.setRegister n x).ctx.registers[m] = s.ctx.registers[m] :=
  Vector.getElem_set_ne n.isLt m.isLt (Fin.val_ne_of_ne hmn.symm)

/-! ### The obligations -/

/-- Settles O34: the row is the bank write of its address, and a byte written in an ordered RAM is read
back there and nowhere else. -/
theorem ramWrites : Obligations.RamWrites := fun a _ s hrow h16 hspace hwf =>
  ⟨_, (exec_of_decode_waddr s hrow).trans (bankWrite_ram_inSpace a s h16 hspace), rfl,
    fun k => Memory.read_write s.ctx.ram k (a.toNat - 16) s.ctx.shiftRegister hwf⟩

/-- Settles O36: the row is the bank write of its address, which sets the one slot. -/
theorem alarmWrites : Obligations.AlarmWrites := fun n _ s hn hrow =>
  ⟨_, (exec_of_decode_waddr s hrow).trans (bankWrite_alarm n s hn), rfl,
    setRegister_registers_same s n _, fun _ hmn => setRegister_registers_other s _ hmn⟩

end Sys2Proof.Machine

/-! # What persists from a destruction to the next creation

A device reaches the one created after it through the image that `PS.save` puts under its name and
`PS.load` finds there. The two conversions between arrays and blocks undo each other. -/

namespace Sys2Proof.Machine

/-! ### The lifecycle calls -/

/-- A step that takes a destruction is the destruction. -/
theorem step_destroy {s : State} {b : Bool} {rest : List Input} (hin : s.inputs = .destroy b :: rest) :
    step s = destroy b (s.taken rest s.host) := by
  simp only [step, fetch, hin]

/-- A step that takes a creation is the creation. -/
theorem step_create {s : State} {p : Params} {rest : List Input} (hin : s.inputs = .create p :: rest) :
    step s = create p (s.taken rest s.host) := by
  simp only [step, fetch, hin]

/-- A device is dirty when a block or the offset differs from its baseline (R265). -/
theorem dirty_iff (c : Context) : c.dirty = true ↔
    c.ram ≠ c.baselineRam ∨ c.registers ≠ c.baselineRegisters ∨ c.offset ≠ c.baselineOffset := by
  simp [Context.dirty, or_assoc]

/-- A requested save of a dirty device is made before the device ends (R264). -/
theorem destroy_dirty {s : State} (hlive : s.live = true) (hdirty : s.ctx.dirty = true) :
    destroy true s = .next s.saved.ended := by
  simp [destroy, hlive, hdirty]

/-- Without a request, or of a clean device, nothing is saved (R264). -/
theorem destroy_unsaved {b : Bool} {s : State} (hlive : s.live = true)
    (hclean : b = true → s.ctx.dirty = false) :
    destroy b s = .next { s with saveCall := none }.ended := by
  have hsave : (b && s.ctx.dirty) = false := by simpa using hclean
  simp [destroy, hlive, hsave]

/-- A step that takes a destruction that does not save leaves what is stored. -/
theorem step_destroy_unsaved {b : Bool} {s : State} {rest : List Input} (hlive : s.live = true)
    (hin : s.inputs = .destroy b :: rest) (hclean : b = true → s.ctx.dirty = false) :
    ∃ t, step s = .next t ∧ t.saveCall = none ∧ t.stored = s.stored :=
  ⟨_, (step_destroy hin).trans (destroy_unsaved hlive hclean), rfl, rfl⟩

/-- A creation adopts an image of the right sizes that the load by its name finds (R260). -/
theorem create_found {p : Params} {s : State} {g : Image} (hlive : s.live = false)
    (hsize : 1 ≤ p.ramSize ∧ p.ramSize ≤ 240) (hfound : s.stored.load p.loadArguments = some g)
    (hram : g.ram.length = p.ramSize) (hregs : g.registers.length = 16) :
    create p s = .next
      (s.created p (Memory.ofBlock g.ram 0) (RegisterBlock.ofBlock g.registers hregs) g.offset) := by
  have hlegal : 1 ≤ p.ramSize ∧ p.ramSize ≤ Config.maxRamSize := hsize
  have hblock : g.registers.length = Config.regSize := hregs
  simp only [create, hlive, Bool.false_eq_true, if_false, if_pos hlegal, hfound, adopt, dif_pos hblock,
    if_pos hram]

/-! ### The round trip -/

/-- A creation under the name and the `RAM_SIZE` of the device just saved gets its RAM, its registers
and its offset back (R268). -/
theorem create_of_saved {p : Params} {s t : State} (hsize : 1 ≤ p.ramSize ∧ p.ramSize ≤ 240)
    (hram : Memory.ok s.params.ramSize s.ctx.ram = true) (hname : p.deviceName = s.params.deviceName)
    (hsame : p.ramSize = s.params.ramSize) (hlive : t.live = false)
    (hstored : t.stored = s.saved.stored) :
    create p t = .next (t.created p s.ctx.ram s.ctx.registers s.ctx.offset) := by
  have hfound : t.stored.load p.loadArguments = some s.saveArguments.image := by
    rw [hstored, saved_stored]
    exact Store.load_save_same _ _ _ hname
  have hramLength : s.saveArguments.image.ram.length = p.ramSize := by
    rw [hsame]
    exact Memory.toBlock_length _ _ _
  have hregsLength : s.saveArguments.image.registers.length = 16 := Vector.length_toList
  have hramBack : Memory.ofBlock s.saveArguments.image.ram 0 = s.ctx.ram :=
    Memory.ofBlock_toBlock _ _ hram
  have hregsBack : RegisterBlock.ofBlock s.saveArguments.image.registers hregsLength =
      s.ctx.registers := RegisterBlock.ofBlock_toList _ _
  rw [create_found hlive hsize hfound hramLength hregsLength, hramBack, hregsBack]
  rfl

/-! ### The obligation -/

/-- Settles O16: a save stores the blocks the next creation under the name loads, and a destruction that
does not save leaves what is stored. -/
theorem persistenceRoundTrip : Obligations.PersistenceRoundTrip := by
  intro s rest hinv hlive
  refine ⟨fun hmutated p hname hsame hin => ?_, fun hram hregs hoffset hin => ?_, fun hin => ?_⟩
  · have hdestroyed := (step_destroy hin).trans (destroy_dirty hlive ((dirty_iff s.ctx).2 hmutated))
    have hsize : 1 ≤ p.ramSize ∧ p.ramSize ≤ 240 := hsame ▸ hinv.ramSize
    exact ⟨_, _, hdestroyed, by simp,
      (step_create rfl).trans (create_of_saved hsize hinv.ram hname hsame rfl rfl),
      rfl, rfl, rfl, rfl, rfl, rfl⟩
  · refine step_destroy_unsaved hlive hin fun _ => ?_
    rw [← Bool.not_eq_true, dirty_iff]
    simp [hram, hregs, hoffset]
  · exact step_destroy_unsaved hlive hin (by simp)

end Sys2Proof.Machine

/-! # The opcode map

Decoding and encoding undo each other, format by format, and a line call is the row its pattern decodes
to. -/

namespace Sys2Proof.Machine

/-! ### Decoding an encoded row -/

/-- A RAM address decodes to the row of its range with the low bits as operand (R106). -/
theorem decode_ram16To31 (low : BitVec 4) :
    decodeWaddr (1#4 ++ low) = .wRam16To31 low ∧ decodeRaddr (1#4 ++ low) = .rRam16To31 low := by
  revert low; decide

theorem decode_ram32To63 (low : BitVec 5) :
    decodeWaddr (1#3 ++ low) = .wRam32To63 low ∧ decodeRaddr (1#3 ++ low) = .rRam32To63 low := by
  revert low; decide

theorem decode_ram64To127 (low : BitVec 6) :
    decodeWaddr (1#2 ++ low) = .wRam64To127 low ∧ decodeRaddr (1#2 ++ low) = .rRam64To127 low := by
  revert low; decide

theorem decode_ram128To255 (low : BitVec 7) :
    decodeWaddr (1#1 ++ low) = .wRam128To255 low ∧ decodeRaddr (1#1 ++ low) = .rRam128To255 low := by
  revert low; decide

/-- An address byte is taken apart into the two fields it was put together from (R87). -/
theorem extract_addressByte (a : BitVec 7) (d : BitVec 1) :
    (addressByte a d).extractLsb' 1 7 = a ∧ (addressByte a d).extractLsb' 0 1 = d := by
  revert a d; decide

/-- An address byte that selects nothing decodes to the catch-all row with its two fields (R87). -/
theorem decodeAddr_addressByte {a : BitVec 7} {d : BitVec 1} (hw : addressByte a d ≠ 0xA0#8)
    (hr : addressByte a d ≠ 0xA1#8) : decodeAddr (addressByte a d) = .addrOther a d := by
  obtain ⟨ha, hd⟩ := extract_addressByte a d
  rw [decodeAddr, if_neg hw, if_neg hr, ha, hd]

/-- Decoding the pattern of a well-formed instruction in its format gives the instruction (R106). -/
theorem decode_encode {i : Instr} (hi : i.wellFormed = true) :
    decode (encode i).1 (encode i).2 = .ok i := by
  cases i with
  | clkSameLo x | clkSameHi x | clkRise x | clkFall x | datSameLo x | datSameHi x => cases x <;> rfl
  | addrOther a d =>
    simp only [Instr.wellFormed, Bool.and_eq_true, bne_iff_ne] at hi
    exact congrArg Except.ok (decodeAddr_addressByte hi.1 hi.2)
  | wRam16To31 low => exact congrArg Except.ok (decode_ram16To31 low).1
  | wRam32To63 low => exact congrArg Except.ok (decode_ram32To63 low).1
  | wRam64To127 low => exact congrArg Except.ok (decode_ram64To127 low).1
  | wRam128To255 low => exact congrArg Except.ok (decode_ram128To255 low).1
  | rRam16To31 low => exact congrArg Except.ok (decode_ram16To31 low).2
  | rRam32To63 low => exact congrArg Except.ok (decode_ram32To63 low).2
  | rRam64To127 low => exact congrArg Except.ok (decode_ram64To127 low).2
  | rRam128To255 low => exact congrArg Except.ok (decode_ram128To255 low).2
  | _ => rfl

/-! ### Encoding a decoded byte -/

/-- The instruction is well formed and its encoding is the byte `b` of the format `f`. -/
def EncodesTo (f : Format) (b : Byte) (i : Instr) : Prop :=
  i.wellFormed = true ∧ encode i = (f, b)

/-- A line pattern has three bits (R106). -/
theorem linePattern_values {b : Byte} (h : b &&& 0xF8#8 = 0) :
    b ∈ [0x00#8, 0x01#8, 0x02#8, 0x03#8, 0x04#8, 0x05#8, 0x06#8, 0x07#8] := by
  revert b; decide

theorem encodesTo_of_decodeEv {b : Byte} {i : Instr} (h : decode .ev b = .ok i) :
    EncodesTo .ev b i := by
  rcases decodeEv_cases h with ⟨rfl, rfl⟩ | ⟨rfl, rfl⟩ | ⟨rfl, rfl⟩ | ⟨rfl, rfl⟩ | ⟨rfl, rfl⟩ <;>
    exact ⟨rfl, rfl⟩

theorem encodesTo_of_decodeClk {b : Byte} {i : Instr} (h : decode .clk b = .ok i) :
    EncodesTo .clk b i := by
  by_cases hb : b &&& 0xF8#8 = 0
  · have hvalues := linePattern_values hb
    clear hb
    fin_cases hvalues <;> cases h <;> exact ⟨rfl, rfl⟩
  · rw [decode, decodeClk, if_neg hb] at h
    cases h

theorem encodesTo_of_decodeDat {b : Byte} {i : Instr} (h : decode .dat b = .ok i) :
    EncodesTo .dat b i := by
  by_cases hb : b &&& 0xF8#8 = 0
  · have hvalues := linePattern_values hb
    clear hb
    fin_cases hvalues <;> cases h <;> exact ⟨rfl, rfl⟩
  · rw [decode, decodeDat, if_neg hb] at h
    cases h

/-- The codes above 10 are no protocol states (R30). -/
theorem decodeFall_error {b : Byte} (h : 11 ≤ b.toNat) : decode .fall b = .error (.notAState b) := by
  revert b; decide

theorem encodesTo_of_decodeFall {b : Byte} {i : Instr} (h : decode .fall b = .ok i) :
    EncodesTo .fall b i := by
  by_cases hb : b.toNat < 11
  · obtain ⟨n, rfl⟩ : ∃ n : Fin 11, b = BitVec.ofNat 8 n.val := ⟨⟨b.toNat, hb⟩, by simp⟩
    clear hb
    fin_cases n <;> cases h <;> exact ⟨rfl, rfl⟩
  · rw [decodeFall_error (by omega)] at h
    cases h

/-- The catch-all row keeps all eight bits of its byte (R87). -/
theorem addressByte_extract (b : Byte) :
    addressByte (b.extractLsb' 1 7) (b.extractLsb' 0 1) = b := by
  revert b; decide

theorem encodesTo_decodeAddr (b : Byte) : EncodesTo .addr b (decodeAddr b) := by
  unfold decodeAddr
  split_ifs with hw hr
  · exact hw ▸ ⟨rfl, rfl⟩
  · exact hr ▸ ⟨rfl, rfl⟩
  · have hb := addressByte_extract b
    refine ⟨?_, by rw [encode, hb]⟩
    simp only [Instr.wellFormed, hb, Bool.and_eq_true, bne_iff_ne]
    exact ⟨hw, hr⟩

/-- The sixteen register addresses. -/
theorem exists_fin_of_lt {a : Byte} (h : a.toNat < 16) : ∃ n : Fin 16, a = BitVec.ofNat 8 n.val :=
  ⟨⟨a.toNat, h⟩, by simp⟩

/-- An address above the registers is a RAM address of one of the four ranges (R106). -/
theorem ramRange_cases {a : Byte} (h : 16 ≤ a.toNat) :
    (∃ low : BitVec 4, a = 1#4 ++ low) ∨ (∃ low : BitVec 5, a = 1#3 ++ low) ∨
      (∃ low : BitVec 6, a = 1#2 ++ low) ∨ ∃ low : BitVec 7, a = 1#1 ++ low := by
  obtain ⟨h16, h32, h64, h128⟩ := ramAddress_bits a
  by_cases g16 : a &&& 0xF0#8 = 0x10#8
  · exact .inl ⟨_, (h16 g16).symm⟩
  · by_cases g32 : a &&& 0xE0#8 = 0x20#8
    · exact .inr (.inl ⟨_, (h32 g32).symm⟩)
    · by_cases g64 : a &&& 0xC0#8 = 0x40#8
      · exact .inr (.inr (.inl ⟨_, (h64 g64).symm⟩))
      · exact .inr (.inr (.inr ⟨_, (h128 (lastRange a h g16 g32 g64)).symm⟩))

/-- The rows of the bank, by address: the sixteen registers, and RAM by its ranges (R106). -/
theorem encodesTo_bank (a : Byte) :
    EncodesTo .waddr a (decodeWaddr a) ∧ EncodesTo .raddr a (decodeRaddr a) := by
  by_cases ha : a.toNat < 16
  · obtain ⟨n, rfl⟩ := exists_fin_of_lt ha
    clear ha
    fin_cases n <;> exact ⟨⟨rfl, rfl⟩, rfl, rfl⟩
  · rcases ramRange_cases (Nat.le_of_not_lt ha) with ⟨low, rfl⟩ | ⟨low, rfl⟩ | ⟨low, rfl⟩ | ⟨low, rfl⟩
    · rw [(decode_ram16To31 low).1, (decode_ram16To31 low).2]; exact ⟨⟨rfl, rfl⟩, rfl, rfl⟩
    · rw [(decode_ram32To63 low).1, (decode_ram32To63 low).2]; exact ⟨⟨rfl, rfl⟩, rfl, rfl⟩
    · rw [(decode_ram64To127 low).1, (decode_ram64To127 low).2]; exact ⟨⟨rfl, rfl⟩, rfl, rfl⟩
    · rw [(decode_ram128To255 low).1, (decode_ram128To255 low).2]; exact ⟨⟨rfl, rfl⟩, rfl, rfl⟩

/-! ### The row of a line call -/

/-- The CLK row of a stored clock level, an argument and the data line (R80, R106). -/
def clkRow : Level → Level → Level → Instr
  | false, false, other => .clkSameLo other
  | true, true, other => .clkSameHi other
  | false, true, other => .clkRise other
  | true, false, other => .clkFall other

/-- The DAT row of a stored data level, an argument and the clock line (R80, R106). -/
def datRow : Level → Level → Level → Instr
  | false, false, other => .datSameLo other
  | true, true, other => .datSameHi other
  | false, true, false => .datRiseClklow
  | true, false, false => .datFallClklow
  | true, false, true => .datStart
  | false, true, true => .datStop

theorem decode_clk_linePattern (stored argument other : Level) :
    decode .clk (linePattern stored argument other) = .ok (clkRow stored argument other) := by
  cases stored <;> cases argument <;> cases other <;> rfl

theorem decode_dat_linePattern (stored argument other : Level) :
    decode .dat (linePattern stored argument other) = .ok (datRow stored argument other) := by
  cases stored <;> cases argument <;> cases other <;> rfl

/-- A `set_clock` call is its CLK row (R80). -/
theorem setClock_eq_row (x : Level) (s : State) :
    setClock x s = exec (clkRow s.ctx.clockLine x s.ctx.dataLine) s := by
  unfold setClock
  cases s.ctx.clockLine <;> cases x <;> rfl

/-- A `set_data` call is its DAT row (R80). -/
theorem setData_eq_row (x : Level) (s : State) :
    setData x s = exec (datRow s.ctx.dataLine x s.ctx.clockLine) s := by
  unfold setData
  cases s.ctx.dataLine <;> cases x <;> cases s.ctx.clockLine <;> rfl

/-- The event of a `set_clock` call is the call (R104). -/
theorem exec_setClock (x : Level) (s : State) : exec (if x then .c1 else .c0) s = setClock x s := by
  cases x <;> rfl

/-- The event of a `set_data` call is the call (R104). -/
theorem exec_setData (x : Level) (s : State) : exec (if x then .d1 else .d0) s = setData x s := by
  cases x <;> rfl

/-! ### The obligations -/

/-- Settles O1: a format at a time, a RAM address by its range and an address byte by its two fields. -/
theorem decodeAfterEncode : Obligations.DecodeAfterEncode := fun _ => decode_encode

/-- Settles O2: a format at a time. -/
theorem encodeAfterDecode : Obligations.EncodeAfterDecode := by
  intro f b i h
  cases f with
  | ev => exact encodesTo_of_decodeEv h
  | clk => exact encodesTo_of_decodeClk h
  | dat => exact encodesTo_of_decodeDat h
  | fall => exact encodesTo_of_decodeFall h
  | addr => cases h; exact encodesTo_decodeAddr b
  | waddr => cases h; exact (encodesTo_bank b).1
  | raddr => cases h; exact (encodesTo_bank b).2

/-- Settles O3: each word runs through the decoder of its format. -/
theorem knownWordsDecode : Obligations.KnownWordsDecode :=
  ⟨rfl, rfl, rfl, rfl, rfl, rfl, rfl, rfl⟩

/-- Settles O20: the pattern of a call decodes to one row, and the call is that row. -/
theorem lineCallsRunTheirRow : Obligations.LineCallsRunTheirRow := by
  intro s x i
  refine ⟨fun hd => ?_, fun hd => ?_⟩
  · rw [decode_clk_linePattern] at hd
    cases hd
    rw [exec_setClock, setClock_eq_row]
  · rw [decode_dat_linePattern] at hd
    cases hd
    rw [exec_setData, setData_eq_row]

end Sys2Proof.Machine

/-! # Completion and the invariant

Every bus operation answers a next state of the invariant in a state of the invariant, and so does every
row of the opcode table; a step keeps the invariant whatever it takes. -/

namespace Sys2Proof.Machine

/-! ### What leaves the outside alone -/

/-- A state seen from outside: the Context keeps its baselines alone, and nothing was read. -/
def State.outside (s : State) : State :=
  { s with
    ctx := Context.initial s.ctx.baselineRam s.ctx.baselineRegisters s.ctx.baselineOffset
    result := none }

/-- What looks the same from outside left the outside alone. -/
theorem OutsideKept.of_eq {s t : State} (h : t.outside = s.outside) : OutsideKept s t where
  params := (congrArg State.params h :)
  live := (congrArg State.live h :)
  host := (congrArg State.host h :)
  stored := (congrArg State.stored h :)
  loadCall := (congrArg State.loadCall h :)
  saveCall := (congrArg State.saveCall h :)
  inputs := (congrArg State.inputs h :)
  baselineRam := (congrArg (fun u : State => u.ctx.baselineRam) h :)
  baselineRegisters := (congrArg (fun u : State => u.ctx.baselineRegisters) h :)
  baselineOffset := (congrArg (fun u : State => u.ctx.baselineOffset) h :)

theorem OutsideKept.trans {s t u : State} (h : OutsideKept s t) (k : OutsideKept t u) :
    OutsideKept s u where
  params := k.params.trans h.params
  live := k.live.trans h.live
  host := k.host.trans h.host
  stored := k.stored.trans h.stored
  loadCall := k.loadCall.trans h.loadCall
  saveCall := k.saveCall.trans h.saveCall
  inputs := k.inputs.trans h.inputs
  baselineRam := k.baselineRam.trans h.baselineRam
  baselineRegisters := k.baselineRegisters.trans h.baselineRegisters
  baselineOffset := k.baselineOffset.trans h.baselineOffset

theorem OutsideKept.setClockLine (s : State) (x : Level) : OutsideKept s (s.setClockLine x) :=
  .of_eq rfl

/-- The registers of the protocol machine are not seen from outside. -/
theorem OutsideKept.withScratch (s : State) (p v : Byte) (n : Nat) (q : ProtocolState) :
    OutsideKept s (s.withScratch p v n q) := .of_eq rfl

/-- A bank write leaves the outside alone. -/
theorem BankWritten.outsideKept {a : Byte} {s t : State} (h : BankWritten a s t) :
    OutsideKept s t := by
  rw [h.frame]
  exact .of_eq rfl

/-- An operation completes, and leaves the outside alone. -/
def Completes (s : State) (r : Result) : Prop := ∃ t, r = .next t ∧ OutsideKept s t

/-- An operation completes in a state of the invariant, and leaves the outside alone. -/
def CompletesInv (s : State) (r : Result) : Prop := ∃ t, r = .next t ∧ OutsideKept s t ∧ t.Inv

theorem CompletesInv.completes {s : State} {r : Result} (h : CompletesInv s r) : Completes s r := by
  obtain ⟨t, ht, hkept, -⟩ := h
  exact ⟨t, ht, hkept⟩

/-! ### What keeps the invariant -/

/-- The invariant speaks of the Context and the parameters. -/
theorem State.Inv.of_ctx_params {s t : State} (hs : s.Inv) (hctx : t.ctx = s.ctx)
    (hparams : t.params = s.params) : t.Inv := by
  obtain ⟨hsize, hpointer, hcount, hram, hbaseline, hslots⟩ := hs
  have hspace := addrSpace_of_params_eq hparams
  rw [← hctx] at hpointer hcount hram hbaseline hslots
  rw [← hparams] at hsize hram hbaseline
  rw [← hspace] at hpointer
  exact ⟨hsize, hpointer, hcount, hram, hbaseline, hslots⟩

theorem State.Inv.taken {s : State} (hs : s.Inv) (rest : List Input) (h : HostClock) :
    (s.taken rest h).Inv := hs.of_ctx_params rfl rfl

theorem State.Inv.setClockLine {s : State} (hs : s.Inv) (x : Level) : (s.setClockLine x).Inv :=
  ⟨hs.ramSize, hs.pointer, hs.bitCount, hs.ram, hs.baselineRam, hs.timeSlots⟩

theorem State.Inv.setDataLine {s : State} (hs : s.Inv) (x : Level) : (s.setDataLine x).Inv :=
  ⟨hs.ramSize, hs.pointer, hs.bitCount, hs.ram, hs.baselineRam, hs.timeSlots⟩

/-- `bit_count` is at most 8 in every protocol state (R31). -/
theorem allowsBitCount_le {q : ProtocolState} {n : Nat} (h : q.allowsBitCount n = true) : n ≤ 8 := by
  cases q <;> simp only [ProtocolState.allowsBitCount, beq_iff_eq, decide_eq_true_eq] at h <;> omega

/-- `IDLE` allows the bit count of the state it is entered from (R281). -/
theorem State.Inv.abort {s : State} (hs : s.Inv) : s.abort.Inv :=
  ⟨hs.ramSize, hs.pointer, decide_eq_true (allowsBitCount_le hs.bitCount), hs.ram, hs.baselineRam,
    hs.timeSlots⟩

/-- A START leaves no bit counted (R128). -/
theorem State.Inv.started {s : State} (hs : s.Inv) : s.started.Inv :=
  ⟨hs.ramSize, hs.pointer, rfl, hs.ram, hs.baselineRam, hs.timeSlots⟩

/-- A falling clock edge keeps the invariant. -/
theorem EdgeDone.inv {s t : State} (h : EdgeDone s t) (hs : s.Inv) : t.Inv where
  ramSize := by rw [h.outside.params]; exact hs.ramSize
  pointer := by rw [addrSpace_of_params_eq h.outside.params]; exact h.inSpace
  bitCount := h.bitCount
  ram := by rw [h.outside.params]; exact h.ram
  baselineRam := by rw [h.outside.params, h.outside.baselineRam]; exact hs.baselineRam
  timeSlots := fun i h1 h7 => by
    rw [h.timeSlots i h1 h7, h.outside.baselineRegisters]
    exact hs.timeSlots i h1 h7

/-- A fresh device meets the invariant if its RAM has the size and the form (R44). -/
theorem created_inv {s : State} {p : Params} {ram : Memory} {registers : RegisterBlock} {offset : Int}
    (hsize : 1 ≤ p.ramSize ∧ p.ramSize ≤ 240) (hram : Memory.ok p.ramSize ram = true) :
    (s.created p ram registers offset).Inv where
  ramSize := hsize
  pointer := Nat.lt_of_lt_of_le (show 0 < 16 by decide) (addrSpace_ge_regSize _)
  bitCount := rfl
  ram := hram
  baselineRam := hram
  timeSlots := fun _ _ _ => rfl

/-- A loaded block has the form of an array of its size (R260). -/
theorem ofBlock_ok (bytes : List Byte) : Memory.ok bytes.length (Memory.ofBlock bytes 0) = true := by
  rw [Memory.ok, Bool.and_eq_true]
  exact ⟨Memory.ofBlock_wf _ _, Memory.ofBlock_below _ _ _ (by omega)⟩

/-! ### The bus operations -/

/-- A START: `set_data(0)` with both lines high (R128). -/
theorem setData_start {s : State} (hc : s.ctx.clockLine = true) (hd : s.ctx.dataLine = true) :
    setData false s = .next s.started := by
  simp only [setData, hc, hd]; rfl

/-- A STOP: `set_data(1)` with the clock high and the data line low (R129). -/
theorem setData_stop {s : State} (hc : s.ctx.clockLine = true) (hd : s.ctx.dataLine = false) :
    setData true s = .next (s.setDataLine true).abort := by
  simp only [setData, hc, hd]; rfl

/-- A falling edge is a `set_clock(0)` with the clock high (R112). -/
theorem setClock_fallingEdge {s : State} (h : s.ctx.clockLine = true) :
    setClock false s = fallingEdge (s.setClockLine false) := by
  rw [setClock_fall h, fallingEdge_eq_row]; rfl

theorem setClock_completesInv (x : Level) {s : State} (hs : s.Inv) :
    CompletesInv s (setClock x s) := by
  by_cases hsame : s.ctx.clockLine = x
  · exact ⟨s, setClock_same hsame, .of_eq rfl, hs⟩
  · cases x with
    | true =>
      exact ⟨_, setClock_rise (by simpa using hsame), .of_eq rfl, hs.setClockLine true⟩
    | false =>
      have hlow := hs.setClockLine false
      obtain ⟨t, ht, hdone⟩ := fallingEdge_spec _ hlow
      exact ⟨t, (setClock_fallingEdge (by simpa using hsame)).trans ht,
        (OutsideKept.setClockLine s false).trans hdone.outside, hdone.inv hlow⟩

theorem setData_completesInv (x : Level) {s : State} (hs : s.Inv) :
    CompletesInv s (setData x s) := by
  by_cases hsame : s.ctx.dataLine = x
  · exact ⟨s, setData_same hsame, .of_eq rfl, hs⟩
  · cases hc : s.ctx.clockLine with
    | false => exact ⟨_, setData_clockLow hc hsame, .of_eq rfl, hs.setDataLine x⟩
    | true =>
      cases x with
      | true =>
        exact ⟨_, setData_stop hc (by simpa using hsame), .of_eq rfl,
          (hs.setDataLine true).abort⟩
      | false =>
        exact ⟨_, setData_start hc (by simpa using hsame), .of_eq rfl, hs.started⟩

/-- Each of the five bus operations completes and keeps the invariant (R104). -/
theorem exec_event_completesInv {code : Byte} {i : Instr} {s : State} (hd : decode .ev code = .ok i)
    (hs : s.Inv) : CompletesInv s (exec i s) := by
  rcases decodeEv_cases hd with ⟨-, rfl⟩ | ⟨-, rfl⟩ | ⟨-, rfl⟩ | ⟨-, rfl⟩ | ⟨-, rfl⟩
  · exact setClock_completesInv false hs
  · exact setClock_completesInv true hs
  · exact setData_completesInv false hs
  · exact setData_completesInv true hs
  · exact ⟨_, rfl, .of_eq rfl, hs.of_ctx_params rfl rfl⟩

/-- A step that takes a bus operation runs its instruction. -/
theorem step_bus {s : State} {code : Byte} {h : HostClock} {rest : List Input} {i : Instr}
    (hlive : s.live = true) (hin : s.inputs = .bus code h :: rest) (hd : decode .ev code = .ok i) :
    step s = exec i (s.taken rest h) := by
  simp only [step, fetch_bus s code h rest i hlive hin hd]

/-! ### The rows of the opcode table -/

/-- A pointer commit sets the pointer and nothing else (R65). -/
theorem exists_commitPointer (s : State) : ∃ p, s.commitPointer = s.setPointer p := ⟨_, rfl⟩

/-- A pointer increment sets the pointer and nothing else (R66). -/
theorem exists_incrementPointer (s : State) : ∃ p, s.incrementPointer = s.setPointer p := ⟨_, rfl⟩

/-- An acknowledged edge in `READ_ACK`, as the whole next state (R124). -/
theorem execFallReadAck_acked {s : State} (hd : s.ctx.dataLine = false) (h0 : 0 < s.addrSpace)
    (h256 : s.addrSpace ≤ 256) :
    ∃ p : Byte, p.toNat = (s.ctx.registerPointer.toNat + 1) % s.addrSpace ∧
      execFallReadAck s = .next (s.withScratch p (s.bankByte p) 0 .readRegs) := by
  have hpointer := incrementPointer_toNat s h0 h256
  have hedge := execFallReadAck_ack s hd h0 h256
  obtain ⟨p, hp⟩ := exists_incrementPointer s
  rw [hp] at hpointer hedge
  exact ⟨p, hpointer, hedge⟩

theorem execFallGetAddress_completes (s : State) : Completes s (execFallGetAddress s) := by
  by_cases h7 : s.ctx.bitCount = 7
  · exact ⟨_, (execFallGetAddress_eighth s h7).trans (selectAddress_spec _), .withScratch s _ _ _ _⟩
  · exact ⟨_, execFallGetAddress_early s h7, .withScratch s _ _ _ _⟩

theorem execFallGetRegNr_completes (s : State) : Completes s (execFallGetRegNr s) := by
  by_cases h7 : s.ctx.bitCount = 7
  · obtain ⟨p, hp⟩ := exists_commitPointer s.shiftIn
    have hedge := execFallGetRegNr_eighth s h7
    rw [hp] at hedge
    exact ⟨_, hedge, .withScratch s p _ _ _⟩
  · exact ⟨_, execFallGetRegNr_early s h7, .withScratch s _ _ _ _⟩

theorem execFallReadRegs_completes (s : State) : Completes s (execFallReadRegs s) := by
  by_cases h7 : s.ctx.bitCount = 7
  · exact ⟨_, execFallReadRegs_eighth s h7, .withScratch s _ _ _ _⟩
  · exact ⟨_, execFallReadRegs_early s h7, .withScratch s _ _ _ _⟩

theorem execFallReadAck_completes {s : State} (hs : s.Inv) : Completes s (execFallReadAck s) := by
  obtain ⟨h0, h256⟩ := hs.addrSpace_bounds
  cases hd : s.ctx.dataLine with
  | true => exact ⟨_, execFallReadAck_nack s hd, .withScratch s _ _ _ _⟩
  | false =>
    obtain ⟨p, -, hedge⟩ := execFallReadAck_acked hd h0 h256
    exact ⟨_, hedge, .withScratch s p _ _ _⟩

theorem execFallWriteRegs_completes {s : State} (hs : s.Inv) : Completes s (execFallWriteRegs s) := by
  by_cases h7 : s.ctx.bitCount = 7
  · obtain ⟨u, hu, hw⟩ := bankWrite_spec s.ctx.registerPointer s.shiftIn hs.pointer
    have hshift : OutsideKept s s.shiftIn := .withScratch s _ _ _ _
    have hend : OutsideKept u (u.incrementPointer.setProtocol .writeAck) := by
      obtain ⟨p, hp⟩ := exists_incrementPointer u
      rw [hp]
      exact .withScratch u p _ _ _
    exact ⟨_, (execFallWriteRegs_eighth s h7).trans (by rw [hu, andThen_next]),
      (hshift.trans hw.outsideKept).trans hend⟩
  · exact ⟨_, execFallWriteRegs_early s h7, .withScratch s _ _ _ _⟩

/-- The row of a RAM address carries the address (R106). -/
theorem ramAddress_decode {a : Byte} (h : 16 ≤ a.toNat) :
    (decodeWaddr a).ramAddress = some a ∧ (decodeRaddr a).ramAddress = some a := by
  rcases ramRange_cases h with ⟨low, rfl⟩ | ⟨low, rfl⟩ | ⟨low, rfl⟩ | ⟨low, rfl⟩
  · rw [(decode_ram16To31 low).1, (decode_ram16To31 low).2]; exact ⟨rfl, rfl⟩
  · rw [(decode_ram32To63 low).1, (decode_ram32To63 low).2]; exact ⟨rfl, rfl⟩
  · rw [(decode_ram64To127 low).1, (decode_ram64To127 low).2]; exact ⟨rfl, rfl⟩
  · rw [(decode_ram128To255 low).1, (decode_ram128To255 low).2]; exact ⟨rfl, rfl⟩

/-- An address is inside the address space if it is a register, or a RAM address said to be. -/
theorem inSpace_of_ramAddress {a : Byte} {i : Instr} {s : State}
    (hrow : 16 ≤ a.toNat → i.ramAddress = some a)
    (hspace : ∀ b, i.ramAddress = some b → b.toNat < s.addrSpace) : a.toNat < s.addrSpace := by
  by_cases ha : 16 ≤ a.toNat
  · exact hspace a (hrow ha)
  · exact Nat.lt_of_lt_of_le (by omega) (addrSpace_ge_regSize s)

/-- A row of the bank completes at an address inside the address space (R178, R190). -/
theorem exec_bank_completes {i : Instr} {s : State}
    (hbank : (encode i).1 = .waddr ∨ (encode i).1 = .raddr)
    (hspace : ∀ a, i.ramAddress = some a → a.toNat < s.addrSpace) : Completes s (exec i s) := by
  have hwf : i.wellFormed = true := by
    cases i with
    | addrOther a d => simp [encode] at hbank
    | _ => rfl
  have hrow := decode_encode hwf
  generalize (encode i).2 = a at hrow
  rcases hbank with hformat | hformat <;> rw [hformat] at hrow <;> cases hrow
  · have ha := inSpace_of_ramAddress (fun h => (ramAddress_decode h).1) hspace
    obtain ⟨t, ht, hw⟩ := bankWrite_spec a s ha
    exact ⟨t, (bankWrite_eq_exec a s).symm.trans ht, hw.outsideKept⟩
  · have ha := inSpace_of_ramAddress (fun h => (ramAddress_decode h).2) hspace
    exact ⟨_, (bankRead_eq_exec a s).symm.trans (bankRead_eq a s ha), .of_eq rfl⟩

/-- Every instruction completes in a state of the invariant. -/
theorem exec_completes (i : Instr) {s : State} (hs : s.Inv)
    (hspace : ∀ a, i.ramAddress = some a → a.toNat < s.addrSpace) : Completes s (exec i s) := by
  by_cases hbank : (encode i).1 = .waddr ∨ (encode i).1 = .raddr
  · exact exec_bank_completes hbank hspace
  · cases i with
    | c0 => exact (setClock_completesInv false hs).completes
    | c1 => exact (setClock_completesInv true hs).completes
    | d0 => exact (setData_completesInv false hs).completes
    | d1 => exact (setData_completesInv true hs).completes
    | clkFall x =>
      obtain ⟨t, ht, hdone⟩ := fallingEdge_spec _ (hs.setClockLine false)
      exact ⟨t, ht, (OutsideKept.setClockLine s false).trans hdone.outside⟩
    | fallGetAddress => exact execFallGetAddress_completes s
    | fallAddressReadAck => exact ⟨_, execFallAddressReadAck_spec s hs.pointer, .withScratch s _ _ _ _⟩
    | fallGetRegNr => exact execFallGetRegNr_completes s
    | fallReadRegs => exact execFallReadRegs_completes s
    | fallReadAck => exact execFallReadAck_completes hs
    | fallWriteRegs => exact execFallWriteRegs_completes hs
    | r | clkSameLo | clkSameHi | clkRise | datSameLo | datSameHi | datRiseClklow | datFallClklow
    | datStart | datStop | fallIdle | fallStartWait | fallAddressWriteAck | fallRegNrAck
    | fallWriteAck | slaW | slaR | addrOther => exact ⟨_, rfl, .of_eq rfl⟩
    | _ => simp [encode] at hbank

/-! ### The obligations -/

/-- Settles O8: a bus operation completes in a state of the invariant, a creation makes one, and the
other calls leave the Context and the parameters. -/
theorem stepKeepsInvariant : Obligations.StepKeepsInvariant := by
  intro s t hs h
  rcases step_next_cases s t h with ⟨-, rfl⟩ | ⟨code, c, rest, i, -, -, hd, hexec⟩ |
    ⟨p, rest, -, hcreate⟩ | ⟨b, rest, -, hdestroy⟩ | ⟨name, image, rest, -, rfl⟩
  · exact hs
  · obtain ⟨u, hu, -, hinv⟩ := exec_event_completesInv hd (hs.taken rest c)
    cases hexec.symm.trans hu
    exact hinv
  · obtain ⟨-, h1, h240, ⟨-, rfl⟩ | ⟨g, -, hsize, hr, rfl⟩⟩ := create_next_cases _ _ _ hcreate
    · exact created_inv ⟨h1, h240⟩ rfl
    · exact created_inv ⟨h1, h240⟩ (hsize ▸ ofBlock_ok g.ram)
  · obtain ⟨hctx, hparams⟩ := destroy_ctx_params hdestroy
    exact hs.of_ctx_params hctx hparams
  · exact hs.of_ctx_params rfl rfl

/-- Settles O6: the step runs the instruction of the code, and that completes. -/
theorem everyBusOperationCompletes : Obligations.EveryBusOperationCompletes := by
  rintro s code hs ⟨hlive, hcode, c, rest, hin⟩
  obtain ⟨i, hd, -⟩ := decodeEv_ok code hcode
  obtain ⟨t, ht, hkept, -⟩ := exec_event_completesInv hd (hs.taken rest c)
  refine ⟨t, (step_bus hlive hin hd).trans ht, hkept.live.trans hlive, hkept.params, hkept.stored,
    hkept.loadCall, hkept.saveCall, ?_⟩
  rw [hkept.inputs, hin]
  rfl

/-- Settles O7: family by family, a bank row through the address it carries. -/
theorem everyInstructionCompletes : Obligations.EveryInstructionCompletes := by
  intro i s hs hspace
  obtain ⟨t, ht, hkept⟩ := exec_completes i hs hspace
  exact ⟨t, ht, hkept.params, hkept.live, hkept.host, hkept.inputs, hkept.stored, hkept.loadCall,
    hkept.saveCall⟩

/-- Settles O4: the fetch of an event code on a live device is its instruction. -/
theorem stepRunsTheCalledOperation : Obligations.StepRunsTheCalledOperation :=
  fun _ _ _ _ _ hlive hin hd _ => step_bus hlive hin hd

/-- Settles O5: each of the four calls stops in the fetch or in the destruction. -/
theorem callsWithoutMeaningRefused : Obligations.CallsWithoutMeaningRefused := by
  intro s code other h b rest
  refine ⟨fun hlive hcode hin => ?_, fun hdead hin => ?_, fun hdead hin => ?_, fun hin => ?_⟩
  · simp only [step, fetch, hin, hlive, if_true, decodeEv_error code hcode]
  · simp only [step, fetch, hin, hdead, Bool.false_eq_true, if_false]
  · rw [step_destroy hin]
    simp only [destroy, taken_live, hdead, Bool.false_eq_true, if_false]
  · simp only [step, fetch, hin]

/-- Settles O9: reset is a creation, with no array cell listed. -/
theorem resetMeetsInvariant : Obligations.ResetMeetsInvariant where
  ramSize := by decide
  pointer := by decide
  bitCount := rfl
  ram := rfl
  baselineRam := rfl
  timeSlots := fun _ _ _ => rfl

/-- Settles O35: a RAM row is the load or the store of its address, which asks for the address space. -/
theorem ramRowsOutsideSpaceFault : Obligations.RamRowsOutsideSpaceFault := by
  intro i a s hrow hspace
  have hload : loadRam a s = .fault (.addressOutsideSpace a) := if_neg (Nat.not_lt.2 hspace)
  have hstore : storeRam a s = .fault (.addressOutsideSpace a) := if_neg (Nat.not_lt.2 hspace)
  cases i with
  | wRam16To31 | wRam32To63 | wRam64To127 | wRam128To255 => cases hrow; exact hstore
  | rRam16To31 | rRam32To63 | rRam64To127 | rRam128To255 => cases hrow; exact hload
  | _ => cases hrow

end Sys2Proof.Machine

/-! # The edges and the conditions of the bus

What a START, a STOP, a read of the line and each falling edge that samples or counts a bit leave, as
the whole next state. -/

namespace Sys2Proof.Machine

/-! ### The shift logic -/

/-- A bit shifted in, as the whole next state (R114). -/
theorem shiftIn_next (s : State) : s.shiftIn =
    { s with ctx := { s.ctx with shiftRegister := s.shifted, bitCount := s.ctx.bitCount + 1 } } :=
  shiftIn_eq s

/-- The eighth bit shifted in, as the whole next state (R114). -/
theorem shiftIn_eighth {s : State} (h7 : s.ctx.bitCount = 7) : s.shiftIn =
    { s with ctx := { s.ctx with shiftRegister := s.shifted, bitCount := 8 } } := by
  rw [shiftIn_next, h7]

/-! ### The level read -/

/-- In five states the chip drives an acknowledge (R133). -/
theorem ack_of_mem : ∀ q ∈ [ProtocolState.addressWriteAck, .addressReadAck, .regNrAck, .writeAck,
    .readAck], q ≠ .readRegs ∧ q.isAck = true := by
  decide

/-- In five states it drives nothing (R133). -/
theorem not_ack_of_mem : ∀ q ∈ [ProtocolState.idle, .startWait, .getAddress, .getRegNr, .writeRegs],
    q ≠ .readRegs ∧ q.isAck = false := by
  decide

/-! ### The address byte -/

/-- Only the byte 0xA0 is a write-select (R87). -/
theorem decodeAddr_eq_slaW (b : Byte) : decodeAddr b = .slaW ↔ b = 0xA0#8 := by
  unfold decodeAddr
  split_ifs with hw <;> simp [hw]

/-- Only the byte 0xA1 is a read-select (R87). -/
theorem decodeAddr_eq_slaR (b : Byte) : decodeAddr b = .slaR ↔ b = 0xA1#8 := by
  unfold decodeAddr
  split_ifs with hw hr <;> simp [*]

/-! ### The obligations -/

/-- Settles O22: the call with both lines high is the row, and the row is the state a START leaves. -/
theorem startCondition : Obligations.StartCondition := fun _ =>
  ⟨fun hc hd => setData_start hc hd, rfl⟩

/-- Settles O23: the call with the clock high and the data line low is the row, which aborts. -/
theorem stopCondition : Obligations.StopCondition := fun _ =>
  ⟨fun hc hd => setData_stop hc hd, rfl⟩

/-- Settles O24: the level is the current bit in `READ_REGS`, and follows from the protocol state in the
other ten. -/
theorem readDataLevel : Obligations.ReadDataLevel := by
  intro s
  have hother : s.ctx.protocolState ≠ .readRegs →
      s.ctx.drivenLevel = !s.ctx.protocolState.isAck := fun hne => if_neg hne
  refine ⟨s.ctx.drivenLevel, rfl, fun hq _ => if_pos hq, fun hq => ?_, fun hq => ?_⟩
  · obtain ⟨hne, hack⟩ := ack_of_mem _ hq
    rw [hother hne, hack]
    rfl
  · obtain ⟨hne, hack⟩ := not_ack_of_mem _ hq
    rw [hother hne, hack]
    rfl

/-- Settles O25: the row of `IDLE` is empty, and the call runs it. -/
theorem idleClockEdge : Obligations.IdleClockEdge := by
  intro s
  refine ⟨rfl, fun hidle hc => ?_⟩
  have hrow := setClock_fall hc
  rw [hidle] at hrow
  exact hrow

/-- Settles O27: before the eighth bit the edge only shifts, and at it runs the row of the byte. -/
theorem addressByteReceived : Obligations.AddressByteReceived := by
  refine ⟨fun s => ⟨fun hlt => ?_, fun h7 => ?_⟩, fun s a d => ⟨rfl, rfl, rfl⟩,
    fun b => ⟨decodeAddr_eq_slaW b, decodeAddr_eq_slaR b⟩⟩
  · exact (execFallGetAddress_early s hlt.ne).trans (congrArg _ (shiftIn_next s))
  · calc execFallGetAddress s
        = selectAddress s.shiftIn := execFallGetAddress_eighth s h7
      _ = exec (decodeAddr s.shiftIn.ctx.shiftRegister) s.shiftIn := selectAddress_eq_exec _
      _ = _ := by rw [shiftIn_eighth h7]

/-- Settles O28: at the eighth bit the pointer is committed from the assembled byte. -/
theorem pointerByteReceived : Obligations.PointerByteReceived := by
  intro s
  refine ⟨fun hlt => (execFallGetRegNr_early s hlt.ne).trans (congrArg _ (shiftIn_next s)),
    fun h7 => ⟨s.shiftIn.commitPointer.ctx.registerPointer, ?_, ?_⟩⟩
  · rw [commitPointer_toNat, shiftIn_next]
    rfl
  · rw [shiftIn_eighth h7]
    refine (execFallGetRegNr_eighth s h7).trans ?_
    rw [shiftIn_eighth h7]
    rfl

/-- Settles O29: the edge counts the bit and never touches the byte. -/
theorem sentBitCounted : Obligations.SentBitCounted := fun s =>
  ⟨fun hlt => execFallReadRegs_early s hlt.ne, fun h7 => execFallReadRegs_eighth s h7⟩

/-- Settles O30: a NACK aborts, an ACK loads the byte behind the advanced pointer. -/
theorem masterAcknowledges : Obligations.MasterAcknowledges := by
  intro s
  refine ⟨execFallReadAck_nack s, fun hd h1 h240 => ?_⟩
  have hspace : s.addrSpace = 16 + s.params.ramSize := rfl
  exact execFallReadAck_acked hd (by omega) (by omega)

/-- Settles O32: the row of the old pointer runs with the assembled byte, and after it the pointer
advances; what the row leaves beside the bank and the time is what it found. -/
theorem dataByteReceived : Obligations.DataByteReceived := by
  intro s
  refine ⟨fun hlt => (execFallWriteRegs_early s hlt.ne).trans (congrArg _ (shiftIn_next s)),
    fun h7 h1 h240 hp => ?_⟩
  have hspace : s.addrSpace = 16 + s.params.ramSize := rfl
  obtain ⟨u, hu, hw⟩ := bankWrite_spec s.ctx.registerPointer s.shiftIn hp
  refine ⟨u, _, incrementPointer_toNat s (by omega) (by omega), ?_, ?_⟩
  · rw [← shiftIn_eighth h7, ← bankWrite_eq_exec]
    exact hu
  · have hframe : u = s.shiftIn.withBank u := hw.frame
    calc execFallWriteRegs s
        = .next (u.incrementPointer.setProtocol .writeAck) := by
          rw [execFallWriteRegs_eighth s h7, hu, andThen_next]
      _ = .next ((s.shiftIn.withBank u).incrementPointer.setProtocol .writeAck) := by rw [← hframe]
      _ = _ := by rw [shiftIn_eighth h7]; rfl

/-- Settles O33: the row of a bank read is the bank read of its address. -/
theorem bankReads : Obligations.BankReads := by
  intro a i s hrow hspace
  cases hrow
  exact (bankRead_eq_exec a s).symm.trans (bankRead_eq a s hspace)

end Sys2Proof.Machine

/-! # The lifecycle calls

What a creation finds and leaves, and when a destruction saves. -/

namespace Sys2Proof.Machine

/-! ### The creation -/

/-- A creation that finds nothing starts from zeros (R260, R263). -/
theorem create_notFound {p : Params} {s : State} (hlive : s.live = false)
    (hsize : 1 ≤ p.ramSize ∧ p.ramSize ≤ 240) (hfound : s.stored.load p.loadArguments = none) :
    create p s = .next (s.created p [] RegisterBlock.zero 0) := by
  have hlegal : 1 ≤ p.ramSize ∧ p.ramSize ≤ Config.maxRamSize := hsize
  simp only [create, hlive, Bool.false_eq_true, if_false, if_pos hlegal, hfound, adopt]

/-- A second creation of a live device is refused (R260). -/
theorem create_live {p : Params} {s : State} (hlive : s.live = true) :
    create p s = .refused .alreadyCreated := if_pos hlive

/-- A creation with an illegal `RAM_SIZE` is refused (R7). -/
theorem create_ramSize {p : Params} {s : State} (hlive : s.live = false)
    (hsize : p.ramSize = 0 ∨ 240 < p.ramSize) :
    create p s = .refused (.ramSizeOutOfRange p.ramSize) := by
  have hillegal : ¬(1 ≤ p.ramSize ∧ p.ramSize ≤ Config.maxRamSize) := by
    show ¬(1 ≤ p.ramSize ∧ p.ramSize ≤ 240)
    omega
  simp only [create, hlive, Bool.false_eq_true, if_false, if_neg hillegal]

/-- A creation that finds a block of the wrong size is refused (R261). -/
theorem create_mismatch {p : Params} {s : State} {g : Image} (hlive : s.live = false)
    (hsize : 1 ≤ p.ramSize ∧ p.ramSize ≤ 240) (hfound : s.stored.load p.loadArguments = some g)
    (hwrong : g.ram.length ≠ p.ramSize ∨ g.registers.length ≠ 16) :
    create p s = .refused (.imageSizeMismatch g.ram.length g.registers.length) := by
  have hlegal : 1 ≤ p.ramSize ∧ p.ramSize ≤ Config.maxRamSize := hsize
  simp only [create, hlive, Bool.false_eq_true, if_false, if_pos hlegal, hfound, adopt]
  split
  · exact if_neg (hwrong.resolve_right (not_not_intro ‹_›))
  · rfl

/-- The bytes of a loaded register block are the image's (R260). -/
theorem ofBlock_registers (bytes : List Byte) (h : bytes.length = 16) :
    (RegisterBlock.ofBlock bytes h).toList = bytes := rfl

/-- The bytes of a loaded RAM block are the image's (R260). -/
theorem read_ofBlock_zero (bytes : List Byte) (k : Nat) :
    Memory.read (Memory.ofBlock bytes 0) k = bytes.getD k 0 := by
  have hread := Memory.read_ofBlock bytes 0 k
  rw [Nat.zero_add] at hread
  exact hread

/-! ### The destruction -/

/-- Arrays of the same size in canonical form differ exactly where some byte does (R265). -/
theorem memory_ne_iff {n : Nat} {m m' : Memory} (hm : Memory.ok n m = true)
    (hm' : Memory.ok n m' = true) :
    m ≠ m' ↔ ∃ k, k < n ∧ Memory.read m k ≠ Memory.read m' k := by
  rw [Memory.ok, Bool.and_eq_true] at hm hm'
  refine ⟨fun hne => ?_, fun ⟨k, _, hk⟩ heq => hk (by rw [heq])⟩
  by_contra! hall
  refine hne (Memory.ext_of_read m m' hm.1 hm'.1 fun k => ?_)
  by_cases hk : k < n
  · exact hall k hk
  · rw [Memory.read_of_below n m k hm.2 (by omega), Memory.read_of_below n m' k hm'.2 (by omega)]

/-- Register blocks differ exactly where some byte does (R265). -/
theorem registers_ne_iff (r r' : RegisterBlock) : r ≠ r' ↔ ∃ k : Fin 16, r[k] ≠ r'[k] := by
  refine ⟨fun hne => ?_, fun ⟨k, hk⟩ heq => hk (by rw [heq])⟩
  by_contra! hall
  exact hne (Vector.ext fun i hi => hall ⟨i, hi⟩)

/-- In a state of the invariant an device is dirty when some byte or the offset differs from its
baseline (R265). -/
theorem dirty_iff_bytes {s : State} (hs : s.Inv) : s.ctx.dirty = true ↔
    (∃ k, k < s.params.ramSize ∧ Memory.read s.ctx.ram k ≠ Memory.read s.ctx.baselineRam k) ∨
      (∃ k : Fin 16, s.ctx.registers[k] ≠ s.ctx.baselineRegisters[k]) ∨
      s.ctx.offset ≠ s.ctx.baselineOffset := by
  rw [dirty_iff, memory_ne_iff hs.ram hs.baselineRam, registers_ne_iff]

/-! ### The obligations -/

/-- Settles O10: every element is a constant of the reset state. -/
theorem resetValues : Obligations.ResetValues :=
  ⟨fun _ => rfl, fun _ => rfl, by decide, rfl, rfl, rfl, rfl, rfl, rfl, rfl, rfl, rfl, rfl, rfl⟩

/-- Settles O12: the creation finds nothing and starts from zeros. -/
theorem createWithoutImage : Obligations.CreateWithoutImage :=
  fun _ _ _ hlive h1 h240 hin hfound =>
    (step_create hin).trans (create_notFound hlive ⟨h1, h240⟩ hfound)

/-- Settles O13: the creation adopts the blocks it finds, byte by byte. -/
theorem createFromImage : Obligations.CreateFromImage := by
  intro s p g rest hlive h1 h240 hin hfound hram hregs
  have hcreated := create_found (s := s.taken rest s.host) hlive ⟨h1, h240⟩ hfound hram hregs
  exact ⟨_, (step_create hin).trans hcreated, rfl, fun k _ => read_ofBlock_zero g.ram k,
    ofBlock_registers g.registers hregs, rfl, rfl, rfl, rfl, rfl, rfl, rfl, rfl⟩

/-- Settles O14: the creation refuses in the order it asks. -/
theorem createRefusals : Obligations.CreateRefusals := by
  intro s p g rest hin
  rw [step_create hin]
  exact ⟨fun hlive => create_live hlive, fun hdead hsize => create_ramSize hdead hsize,
    fun hdead h1 h240 hfound hwrong => create_mismatch hdead ⟨h1, h240⟩ hfound hwrong⟩

/-- Settles O15: the destruction saves if asked to and dirty, and dirty compares byte by byte. -/
theorem destroySavesWhenDirty : Obligations.DestroySavesWhenDirty := by
  intro s b rest hs hlive hin
  rw [step_destroy hin, ← dirty_iff_bytes hs]
  by_cases hsave : b = true ∧ s.ctx.dirty = true
  · obtain ⟨rfl, hdirty⟩ := hsave
    refine ⟨_, destroy_dirty (s := s.taken rest s.host) hlive hdirty, rfl, by simp [hdirty], ?_, by simp⟩
    rintro c ⟨⟩
    exact ⟨Memory.toBlock_length _ _ _,
      fun k hk => (Memory.getD_toBlock _ _ _ _ hk).trans (by rw [Nat.zero_add]; rfl),
      rfl, rfl, rfl, rfl, rfl, fun n => find_saved (s.taken rest s.host) n⟩
  · refine ⟨_, destroy_unsaved (s := s.taken rest s.host) hlive fun hb => ?_, rfl, by simp [hsave],
      by simp, fun _ => rfl⟩
    simpa [hb] using hsave

/-- Settles O59: the name that is put holds what was put, every other what it held. -/
theorem storedByName : Obligations.StoredByName := by
  intro s name image rest hin
  refine ⟨(s.taken rest s.host).persisted name image, by simp only [step, fetch, hin], rfl, fun n => ?_⟩
  exact find_persisted _ name n image

end Sys2Proof.Machine

/-! # The time model and the writes of time

A control write halts or resumes the clock without moving the virtual time, and a write of a time field
moves the virtual time to what the backend answers. -/

namespace Sys2Proof.Machine

/-! ### Halt and resume -/

/-- A halt captures the time that runs (R228). -/
theorem halt_virtualNow {s : State} (h : s.ctx.halted = false) :
    s.halt.virtualNow = s.virtualNow := by
  simp [State.virtualNow, State.halt, State.runningTime, getLatch, h]

/-- A resume goes on from the time in the latch (R229). -/
theorem resume_virtualNow {s : State} (h : s.ctx.halted = true) :
    s.resume.virtualNow = s.virtualNow := by
  simp [State.virtualNow, State.resume, State.runningTime, getLatch, h]
  omega

/-- A control write answers a next state (R191). -/
theorem execWControl_completes (s : State) : ∃ t, execWControl s = .next t := ⟨_, rfl⟩

/-- No control write moves the virtual time (R230). -/
theorem execWControl_virtualNow {s t : State} (h : execWControl s = .next t) :
    t.virtualNow = s.virtualNow := by
  rcases execWControl_cases s t h with ⟨-, hrun, rfl⟩ | ⟨-, hhalt, rfl⟩ | ⟨-, rfl⟩
  · exact halt_virtualNow hrun
  · exact resume_virtualNow hhalt
  · rfl

/-- A control write leaves the clock halted exactly if bit 7 asks for it (R191). -/
theorem execWControl_halted {s t : State} (h : execWControl s = .next t) :
    t.ctx.halted = haltRequest s.ctx.shiftRegister := (bankWritten_control s t h).halted

/-- While the clock is halted the virtual time is the latch (R226). -/
theorem virtualNow_halted {s : State} (h : s.ctx.halted = true) : s.virtualNow = s.ctx.haltLatch :=
  if_pos h

/-! ### The writes of time fields -/

/-- A write of hours in the 12-hour form (R195). -/
theorem execWHours_twelve {s : State} (h : hourMode s.ctx.shiftRegister = true) :
    execWHours s = .next ((s.setAmPm true).withTime
      (s.timeBackend.setLatched .hourAmPm (hourOperand12 s.ctx.shiftRegister) true s.virtualNow)) := by
  simp only [execWHours, h, if_true, applyField_eq]
  rfl

/-- A write of hours in the 24-hour form (R195). -/
theorem execWHours_twentyFour {s : State} (h : hourMode s.ctx.shiftRegister = false) :
    execWHours s = .next ((s.setAmPm false).withTime
      (s.timeBackend.setLatched .hour (hourOperand24 s.ctx.shiftRegister) true s.virtualNow)) := by
  simp only [execWHours, h, Bool.false_eq_true, if_false, applyField_eq]
  rfl

/-- A write of year and date: the day, then the year within the block of four the day left (R196). -/
theorem execWYearDate_eq {s : State} {t₁ : Int}
    (ht₁ : t₁ = s.timeBackend.setLatched .dayOfMonth (dayOperand s.ctx.shiftRegister) true
      s.virtualNow) :
    execWYearDate s = .next (s.withTime (s.timeBackend.setLatched .year
      (yearOperand s.ctx.shiftRegister (s.timeBackend.get .year t₁ false)) false t₁)) := by
  simp only [execWYearDate, applyField_eq, withTime_timeBackend, withTime_virtualNow,
    withTime_withTime, ht₁]

/-- A write of weekday and month: the month, then the weekday (R197). -/
theorem execWWeekdayMonth_eq (s : State) :
    execWWeekdayMonth s = .next (s.withTime (s.timeBackend.setLatched .weekday
      (weekdayOperand s.ctx.shiftRegister) false
      (s.timeBackend.setLatched .month (monthOperand s.ctx.shiftRegister) true s.virtualNow))) := by
  simp only [execWWeekdayMonth, applyField_eq, withTime_timeBackend, withTime_virtualNow,
    withTime_withTime]

/-- The year a written byte asks for, as a number (R196). -/
theorem yearOperand_toNat (v year : Byte) :
    (yearOperand v year).toNat = (year.toNat / 4 * 4 + v.toNat / 64) % 256 := by
  obtain ⟨-, hplace, -⟩ := packedOperands_toNat v
  have hblock : year.toNat - year.toNat % 4 = year.toNat / 4 * 4 := by omega
  rw [yearOperand, BitVec.toNat_ofNat, hplace, hblock]

/-! ### The obligations -/

/-- Settles O38: halt, resume or neither, and then the byte goes to slot 0. -/
theorem controlWrite : Obligations.ControlWrite := by
  intro s
  obtain ⟨t, ht⟩ := execWControl_completes s
  have hcases : ∃ u : State, u.ctx.registers = s.ctx.registers ∧
      t = u.setRegister 0 s.ctx.shiftRegister := by
    rcases execWControl_cases s t ht with ⟨-, -, h⟩ | ⟨-, -, h⟩ | ⟨-, h⟩
    · exact ⟨s.halt, rfl, h⟩
    · exact ⟨s.resume, rfl, h⟩
    · exact ⟨s, rfl, h⟩
  obtain ⟨u, hregs, hset⟩ := hcases
  refine ⟨t, ht, ?_, fun m hm => ?_, ?_, execWControl_halted ht, ?_⟩
  · rw [hset]
    exact setRegister_registers_same u 0 _
  · have hm0 : m ≠ 0 := fun h => hm (congrArg Fin.val h)
    rw [hset, setRegister_registers_other u _ hm0, hregs]
  · rcases execWControl_cases s t ht with ⟨-, -, rfl⟩ | ⟨-, -, rfl⟩ | ⟨-, rfl⟩ <;> rfl
  · rcases execWControl_cases s t ht with ⟨hreq, hhalted, rfl⟩ | ⟨hreq, hhalted, rfl⟩ | ⟨hreq, rfl⟩ <;>
      unfold haltRequest at hreq
    · simp [hreq, hhalted, State.halt]
    · have hlatch : s.resume.ctx.haltLatch = s.ctx.haltLatch := rfl
      simp only [hreq, hhalted, setRegister_ctx, resume_offset, hlatch]
      simp
      omega
    · rw [hreq]
      cases s.ctx.halted <;> simp

/-- Settles O39: a control write keeps the virtual time, and while halted the host clock does not move
it. -/
theorem timeIsContinuous : Obligations.TimeIsContinuous := by
  refine ⟨fun s => ?_, fun s h v _ hset hclear => ?_⟩
  · obtain ⟨t, ht⟩ := execWControl_completes s
    exact ⟨t, ht, execWControl_virtualNow ht⟩
  · obtain ⟨t, ht⟩ := execWControl_completes s
    obtain ⟨u, hu⟩ := execWControl_completes
      { t with host := h, ctx := { t.ctx with shiftRegister := v } }
    have hhalted : t.ctx.halted = true := (execWControl_halted ht).trans hset
    refine ⟨t, u, ht, hu, ?_, (execWControl_halted hu).trans hclear⟩
    calc u.virtualNow
        = t.ctx.haltLatch := (execWControl_virtualNow hu).trans (virtualNow_halted hhalted)
      _ = t.virtualNow := (virtualNow_halted hhalted).symm
      _ = s.virtualNow := execWControl_virtualNow ht

/-- Settles O40: both rows are the write of one field with the whole byte. -/
theorem secondAndMinuteWrites : Obligations.SecondAndMinuteWrites := fun s =>
  ⟨congrArg Host.Outcome.next (applyField_eq s .second _ true),
    congrArg Host.Outcome.next (applyField_eq s .minute _ true)⟩

/-- Settles O41: bit 7 selects the form, and the operand of the form is the number stated. -/
theorem hourWrite : Obligations.HourWrite := by
  intro s r
  obtain ⟨htwelve, htwentyFour⟩ := hourOperands_toNat s.ctx.shiftRegister
  refine ⟨fun hge hr => ?_, fun hlt hr => ?_⟩
  · obtain ⟨hmode, hoperand⟩ := htwelve hge
    rw [BitVec.eq_of_toNat_eq (hr.trans hoperand.symm)]
    exact execWHours_twelve hmode
  · obtain ⟨hmode, hoperand⟩ := htwentyFour hlt
    rw [BitVec.eq_of_toNat_eq (hr.trans hoperand.symm)]
    exact execWHours_twentyFour hmode

/-- Settles O42: the two operands are the numbers stated. -/
theorem yearDateWrite : Obligations.YearDateWrite := by
  intro s t₁ d y hd ht₁ hy
  obtain ⟨hday, -⟩ := packedOperands_toNat s.ctx.shiftRegister
  have hd' : d = dayOperand s.ctx.shiftRegister := BitVec.eq_of_toNat_eq (hd.trans hday.symm)
  have hy' : y = yearOperand s.ctx.shiftRegister (s.timeBackend.get .year t₁ false) :=
    BitVec.eq_of_toNat_eq (by rw [yearOperand_toNat, ← hy, Nat.mod_eq_of_lt y.isLt])
  rw [hy']
  exact execWYearDate_eq (hd' ▸ ht₁)

/-- Settles O43: the two operands are the numbers stated. -/
theorem weekdayMonthWrite : Obligations.WeekdayMonthWrite := by
  intro s m w hm hw
  obtain ⟨-, -, hmonth, hweekday⟩ := packedOperands_toNat s.ctx.shiftRegister
  rw [BitVec.eq_of_toNat_eq (hm.trans hmonth.symm), BitVec.eq_of_toNat_eq (hw.trans hweekday.symm)]
  exact execWWeekdayMonth_eq s

end Sys2Proof.Machine

/-! # What a START shows

The computed bytes of the snapshot by the numbers of the virtual time, and that a field written to it is
the field the next START shows. -/

namespace Sys2Proof.Machine

/-! ### The numbers of a time -/

/-- The numbers of a time lie in the ranges of their fields (R237 to R241). -/
theorem number_ranges (s : State) (t : Int) :
    s.timeBackend.number .hour t < 24 ∧
    (1 ≤ s.timeBackend.number .dayOfMonth t ∧ s.timeBackend.number .dayOfMonth t ≤ 31) ∧
    (1 ≤ s.timeBackend.number .month t ∧ s.timeBackend.number .month t ≤ 12) ∧
    s.timeBackend.number .year t < 100 ∧ s.timeBackend.number .weekday t < 7 := by
  have hrange := fun f => (timeBackend_conforms s).number_inRange f t
  have hhour := hrange .hour
  have hday := hrange .dayOfMonth
  have hmonth := hrange .month
  have hyear := hrange .year
  have hweekday := hrange .weekday
  simp only [Field.inRange, Bool.and_eq_true, decide_eq_true_eq] at *
  exact ⟨hhour, hday, hmonth, hyear, hweekday⟩

/-- The month field of byte 6 is the BCD of the month (R167). -/
theorem snapshot_month (s : State) : s.snapshot[6].toNat % 32 =
    (bcd (s.timeBackend.number .month s.virtualNow)).toNat := by
  obtain ⟨-, -, -, -, -, hbyte⟩ := snapshot_bytes s
  obtain ⟨-, -, ⟨-, hmonth⟩, -⟩ := number_ranges s s.virtualNow
  have hfits := bcd_fits.1 _ (Nat.lt_succ_of_le hmonth)
  omega

/-- The weekday field of byte 6 is the weekday plus one (R167). -/
theorem snapshot_weekday (s : State) : s.snapshot[6].toNat / 32 =
    s.timeBackend.number .weekday s.virtualNow + 1 := by
  obtain ⟨-, -, -, -, -, hbyte⟩ := snapshot_bytes s
  obtain ⟨-, -, ⟨-, hmonth⟩, -⟩ := number_ranges s s.virtualNow
  have hfits := bcd_fits.1 _ (Nat.lt_succ_of_le hmonth)
  omega

/-- The virtual times of two states have the same numbers but for the field `f`. -/
def SameBut (f : Field) (s u : State) : Prop :=
  ∀ g ∈ Field.dateAndTime, g ≠ f →
    u.timeBackend.number g u.virtualNow = s.timeBackend.number g s.virtualNow

/-- The bytes that do not show the field in which two virtual times differ are the same. -/
theorem snapshot_congr {f : Field} {s u : State} (h : SameBut f s u) :
    (f ≠ .second → u.snapshot[2] = s.snapshot[2]) ∧ (f ≠ .minute → u.snapshot[3] = s.snapshot[3]) ∧
    (f ≠ .hour → u.ctx.amPm = s.ctx.amPm → u.snapshot[4] = s.snapshot[4]) ∧
    (f ≠ .dayOfMonth → f ≠ .year → u.snapshot[5] = s.snapshot[5]) ∧
    (f ≠ .month → u.snapshot[6].toNat % 32 = s.snapshot[6].toNat % 32) := by
  obtain ⟨-, u2, u3, u4, u5, -⟩ := snapshot_bytes u
  obtain ⟨-, s2, s3, s4, s5, -⟩ := snapshot_bytes s
  refine ⟨fun hf => ?_, fun hf => ?_, fun hf hmode => ?_, fun hd hy => ?_, fun hf => ?_⟩
  · rw [u2, s2, h .second (by decide) hf.symm]
  · rw [u3, s3, h .minute (by decide) hf.symm]
  · rw [u4, s4, h .hour (by decide) hf.symm, hmode]
  · refine BitVec.eq_of_toNat_eq ?_
    rw [u5, s5, h .dayOfMonth (by decide) hd.symm, h .year (by decide) hy.symm]
  · rw [snapshot_month, snapshot_month, h .month (by decide) hf.symm]

/-! ### A field of the time of day written -/

/-- A state whose virtual time is the one of `s` with a field of the time of day set (R242(b)). -/
theorem set_timeOfDay {f : Field} {n : Nat} {s u : State}
    (hf : f ∈ [Field.second, .minute, .hour, .hourAmPm]) (hn : f.inRange n = true)
    (hbackend : u.timeBackend = s.timeBackend)
    (hnow : u.virtualNow = s.timeBackend.setLatched f (f.encode n true) true s.virtualNow) :
    u.timeBackend.number f.base u.virtualNow = n ∧ SameBut f.base s u := by
  have hset := (timeBackend_conforms s).set_timeOfDay f n true s.virtualNow hf hn
  rw [← hnow, ← hbackend] at hset
  refine ⟨?_, fun g hg hne => ?_⟩
  · have hbase : f.base ∈ Field.dateAndTime := by
      revert hf; cases f <;> decide
    rw [hset f.base hbase, TimeBackend.numberWith_same]
  · rw [hset g hg, TimeBackend.numberWith_other _ _ _ _ _ hne, hbackend]

/-- What the next START shows after a write of the seconds or the minutes (R193, R194). -/
theorem secondsOrMinutes_readBack {f : Field} {n : Nat} {s : State} (hf : f = .second ∨ f = .minute)
    (hn : n < 60) (hbyte : s.ctx.shiftRegister = bcd n) :
    SameBut f s (s.applyField f s.ctx.shiftRegister true) ∧
      (s.applyField f s.ctx.shiftRegister true).timeBackend.number f
        (s.applyField f s.ctx.shiftRegister true).virtualNow = n := by
  rw [applyField_eq, hbyte]
  rcases hf with rfl | rfl
  · exact (set_timeOfDay (f := .second) (by decide) (by simpa [Field.inRange] using hn)
      (withTime_timeBackend s _) (withTime_virtualNow s _)).symm
  · exact (set_timeOfDay (f := .minute) (by decide) (by simpa [Field.inRange] using hn)
      (withTime_timeBackend s _) (withTime_virtualNow s _)).symm

theorem applyField_amPm (s : State) (f : Field) (v : Byte) (b : Bool) :
    (s.applyField f v b).ctx.amPm = s.ctx.amPm := by
  rw [applyField_eq, withTime_amPm]

/-- The canonical byte of an hour in the form asked for (R95). -/
def hourByte (twelve : Bool) (h : Nat) : Byte :=
  if twelve then 0x80#8 ||| (if 12 ≤ h then 0x40#8 else 0#8) ||| bcd (hour12 h) else bcd h

/-- A write of the canonical byte of an hour sets the form and the hour (R195). -/
theorem execWHours_canonical {s : State} {h : Nat} {twelve : Bool} (hh : h < 24)
    (hbyte : s.ctx.shiftRegister = hourByte twelve h) :
    ∃ t, execWHours s = .next t ∧ t.ctx.amPm = twelve ∧
      t.timeBackend.number .hour t.virtualNow = h ∧ SameBut .hour s t := by
  obtain ⟨⟨hop12, hmode12⟩, hop24, hmode24⟩ := hourOperand_canonical h hh
  cases twelve with
  | true =>
    have hreg : s.ctx.shiftRegister = hourRegister12 (encodeHourAmPm h true) :=
      hbyte.trans (hourRegister12_encode h hh).symm
    rw [← hreg] at hop12 hmode12
    refine ⟨_, execWHours_twelve hmode12, withTime_amPm _ _, ?_⟩
    rw [hop12]
    exact set_timeOfDay (f := .hourAmPm) (by decide) (by simpa [Field.inRange] using hh)
      (withTime_timeBackend _ _) (withTime_virtualNow _ _)
  | false =>
    have hreg : s.ctx.shiftRegister = bcd h := hbyte
    rw [← hreg] at hmode24
    refine ⟨_, execWHours_twentyFour hmode24, withTime_amPm _ _, ?_⟩
    rw [hreg, hop24]
    exact set_timeOfDay (f := .hour) (by decide) (by simpa [Field.inRange] using hh)
      (withTime_timeBackend _ _) (withTime_virtualNow _ _)

/-- Byte 4 is the canonical byte of the hour of the virtual time (R165). -/
theorem snapshot_hours (s : State) :
    s.snapshot[4] = hourByte s.ctx.amPm (s.timeBackend.number .hour s.virtualNow) := by
  obtain ⟨-, -, -, hbyte, -⟩ := snapshot_bytes s
  exact hbyte

/-! ### A field of the date written -/

/-- A day and a place in the block of four years, in a written byte (R196). -/
theorem yearDate_operands {v : Byte} {d q : Nat} (hd : d ≤ 31) (hv : v.toNat = 64 * q + (bcd d).toNat) :
    dayOperand v = bcd d ∧ v.toNat / 64 = q := by
  obtain ⟨hday, -⟩ := packedOperands_toNat v
  have hfits := bcd_fits.2 d (by omega)
  exact ⟨BitVec.eq_of_toNat_eq (by omega), by omega⟩

/-- The year operand of a written byte is the year `y` if its place in the block asks for it (R196). -/
theorem yearOperand_eq {s : State} {t₁ : Int} {v : Byte} {y : Nat}
    (hy : y = s.timeBackend.number .year t₁ / 4 * 4 + v.toNat / 64) :
    yearOperand v (s.timeBackend.get .year t₁ false) = Field.year.encode y false := by
  have hoperand : (yearOperand v (s.timeBackend.get .year t₁ false)).toNat = y % 256 := by
    rw [yearOperand_toNat, hy]
    rfl
  exact BitVec.eq_of_toNat_eq (hoperand.trans (BitVec.toNat_ofNat y 8).symm)

/-- Setting a day and then a year, to dates that exist, sets both (R242(b)). -/
theorem set_dayThenYear {s : State} {d y : Nat} {t t₁ t₂ : Int} (hd : Field.dayOfMonth.inRange d = true)
    (hy : Field.year.inRange y = true) (hday : s.timeBackend.DateExists .dayOfMonth d t)
    (ht₁ : t₁ = s.timeBackend.setLatched .dayOfMonth (bcd d) true t)
    (hyear : s.timeBackend.DateExists .year y t₁)
    (ht₂ : t₂ = s.timeBackend.setLatched .year (Field.year.encode y false) false t₁) :
    s.timeBackend.number .dayOfMonth t₂ = d ∧ s.timeBackend.number .year t₂ = y := by
  have hconforms := timeBackend_conforms s
  have hset₁ : s.timeBackend.Replaces Field.dateAndTime .dayOfMonth d t t₁ :=
    ht₁ ▸ hconforms.set_date .dayOfMonth d true t (by decide) hd hday
  have hset₂ : s.timeBackend.Replaces Field.dateAndTime .year y t₁ t₂ :=
    ht₂ ▸ hconforms.set_date .year y false t₁ (by decide) hy hyear
  have hdayKept := hset₂ .dayOfMonth (by decide)
  have hyearSet := hset₂ .year (by decide)
  have hdaySet := hset₁ .dayOfMonth (by decide)
  rw [TimeBackend.numberWith_same] at hdaySet hyearSet
  rw [TimeBackend.numberWith_other _ _ _ _ _ (by decide), hdaySet] at hdayKept
  exact ⟨hdayKept, hyearSet⟩

/-- The next START shows a day and a year place that were written, if the dates exist (R196). -/
theorem yearDate_readBack {s : State} {d q y : Nat} {t₁ : Int} (hd1 : 1 ≤ d) (hd31 : d ≤ 31) (hq : q < 4)
    (hv : s.ctx.shiftRegister.toNat = 64 * q + (bcd d).toNat)
    (hday : s.timeBackend.DateExists .dayOfMonth d s.virtualNow)
    (ht₁ : t₁ = s.timeBackend.setLatched .dayOfMonth (bcd d) true s.virtualNow)
    (hy : y = s.timeBackend.number .year t₁ / 4 * 4 + q)
    (hyear : s.timeBackend.DateExists .year y t₁) :
    ∃ t, execWYearDate s = .next t ∧ t.snapshot[5] = s.ctx.shiftRegister := by
  obtain ⟨hdayOperand, hplace⟩ := yearDate_operands hd31 hv
  obtain ⟨-, -, -, hblock, -⟩ := number_ranges s t₁
  have hwrite := execWYearDate_eq (s := s) (t₁ := t₁) (by rw [hdayOperand]; exact ht₁)
  rw [yearOperand_eq (y := y) (by rw [hplace]; exact hy)] at hwrite
  refine ⟨_, hwrite, BitVec.eq_of_toNat_eq ?_⟩
  obtain ⟨hdayNumber, hyearNumber⟩ := set_dayThenYear (by simp [Field.inRange, hd1, hd31])
    (by simp only [Field.inRange, decide_eq_true_eq]; omega) hday ht₁ hyear rfl
  obtain ⟨-, -, -, -, hbyte, -⟩ := snapshot_bytes
    (s.withTime (s.timeBackend.setLatched .year (Field.year.encode y false) false t₁))
  rw [hbyte, withTime_timeBackend, withTime_virtualNow, hdayNumber, hyearNumber, hv]
  omega

/-- The next START shows a weekday that was written, if a date near enough has it (R197). -/
theorem weekday_readBack {s : State} {w : Nat} {m : Byte} {t₁ t₂ : Int} (hw : w < 7)
    (hcode : s.ctx.shiftRegister.toNat / 32 = w + 1) (hm : m.toNat = s.ctx.shiftRegister.toNat % 32)
    (ht₁ : t₁ = s.timeBackend.setLatched .month m true s.virtualNow)
    (hmoves : s.timeBackend.MovesToWeekday w t₁ t₂) :
    ∃ t, execWWeekdayMonth s = .next t ∧ t.snapshot[6].toNat / 32 = w + 1 := by
  obtain ⟨-, -, hmonth, hweekday⟩ := packedOperands_toNat s.ctx.shiftRegister
  have hmonthOperand : monthOperand s.ctx.shiftRegister = m :=
    BitVec.eq_of_toNat_eq (hmonth.trans hm.symm)
  have hweekdayOperand : weekdayOperand s.ctx.shiftRegister = Field.weekday.encode w false := by
    refine BitVec.eq_of_toNat_eq (hweekday.trans ?_)
    rw [Field.encode, BitVec.toNat_ofNat, hcode]
    omega
  obtain ⟨hnumber, -⟩ := (timeBackend_conforms s).set_weekday w false t₁
    (by simpa [Field.inRange] using hw) ⟨t₂, hmoves⟩
  refine ⟨_, execWWeekdayMonth_eq s, ?_⟩
  rw [snapshot_weekday, withTime_timeBackend, withTime_virtualNow, hmonthOperand, hweekdayOperand, ← ht₁,
    hnumber]

/-! ### The obligations -/

/-- Settles O44: the backend sets the number written and keeps the others of the date and time. -/
theorem secondsReadBack : Obligations.SecondsReadBack := by
  intro s n hn hbyte
  refine ⟨⟨_, _, rfl, exec_datStart _, ?_⟩, ⟨_, _, rfl, exec_datStart _, ?_⟩⟩ <;>
    simp only [started_readSnapshot]
  · obtain ⟨hsame, hset⟩ := secondsOrMinutes_readBack (.inl rfl) hn hbyte
    obtain ⟨-, h3, h4, h5, h6⟩ := snapshot_congr hsame
    obtain ⟨-, h2, -⟩ := snapshot_bytes (s.applyField .second s.ctx.shiftRegister true)
    exact ⟨by rw [h2, hset, hbyte], h3 (by decide), h4 (by decide) (applyField_amPm _ _ _ _),
      h5 (by decide) (by decide), h6 (by decide)⟩
  · obtain ⟨hsame, hset⟩ := secondsOrMinutes_readBack (.inr rfl) hn hbyte
    obtain ⟨h2, -, h4, h5, h6⟩ := snapshot_congr hsame
    obtain ⟨-, -, h3, -⟩ := snapshot_bytes (s.applyField .minute s.ctx.shiftRegister true)
    exact ⟨by rw [h3, hset, hbyte], h2 (by decide), h4 (by decide) (applyField_amPm _ _ _ _),
      h5 (by decide) (by decide), h6 (by decide)⟩

/-- Settles O45: the write sets the form and the hour, and the snapshot shows the hour in the form. -/
theorem hourReadsBack : Obligations.HourReadsBack := by
  intro s h twelve hh hbyte
  obtain ⟨t, ht, hmode, hhour, hsame⟩ := execWHours_canonical hh hbyte
  obtain ⟨h2, h3, -, h5, h6⟩ := snapshot_congr hsame
  refine ⟨t, t.started, ht, exec_datStart t, hmode, ?_⟩
  simp only [started_readSnapshot]
  refine ⟨?_, h2 (by decide), h3 (by decide), h5 (by decide) (by decide), h6 (by decide)⟩
  rw [snapshot_hours, hmode, hhour]
  exact hbyte.symm

/-- Settles O46: the day and then the year reach dates that exist, and the weekday a date near enough, so
the backend sets what was written. -/
theorem dateReadsBack : Obligations.DateReadsBack := by
  intro s
  refine ⟨fun d q y t₁ hd1 hd31 hq hv hday ht₁ hy hyear => ?_,
    fun w m t₁ t₂ hw hcode hm ht₁ hmoves => ?_⟩
  · obtain ⟨t, ht, hbyte⟩ := yearDate_readBack hd1 hd31 hq hv hday ht₁ hy hyear
    exact ⟨t, t.started, ht, exec_datStart t, hbyte⟩
  · obtain ⟨t, ht, hbyte⟩ := weekday_readBack hw hcode hm ht₁ hmoves
    exact ⟨t, t.started, ht, exec_datStart t, hbyte.trans hcode.symm⟩

/-- Settles O49: byte 4 is the hour of the virtual time in the form of the flag. -/
theorem snapshotHours : Obligations.SnapshotHours := by
  intro s
  obtain ⟨hhour, -⟩ := number_ranges s s.virtualNow
  exact ⟨s.started, _, exec_datStart s, hhour, rfl, snapshot_hours s⟩

/-- Settles O50: the bytes are those of the numbers of the virtual time, whose ranges the contract
gives. -/
theorem snapshotCentisecondsAndDate : Obligations.SnapshotCentisecondsAndDate := by
  intro s
  obtain ⟨hcs, -, -, -, hdate, hmonth⟩ := snapshot_bytes s
  obtain ⟨-, ⟨hd1, hd31⟩, ⟨hm1, hm12⟩, hy, hw⟩ := number_ranges s s.virtualNow
  exact ⟨s.started, _, _, _, _, exec_datStart s, hcs, rfl, hd1, hd31, rfl, hm1, hm12, rfl, hy, rfl, hw,
    hdate, hmonth⟩

end Sys2Proof.Machine

/-! # What a bus operation reaches

Which operations reach the storage, the pointer and the protocol state, from any state: the falling edges
row by row, then the five events. -/

namespace Sys2Proof.Machine

/-! ### The falling edges -/

/-- What a falling clock edge reaches: the bank and the time model at the eighth edge of a written byte
only; the pointer at that edge, at the eighth edge of a pointer byte and at an acknowledge only. -/
structure EdgeReached (s t : State) : Prop where
  outside : OutsideKept s t
  bank : ¬(s.ctx.protocolState = .writeRegs ∧ s.ctx.bitCount = 7) → s = s.withBank t
  pointer : t.ctx.registerPointer ≠ s.ctx.registerPointer →
    (s.ctx.protocolState = .getRegNr ∧ s.ctx.bitCount = 7) ∨
      (s.ctx.protocolState = .writeRegs ∧ s.ctx.bitCount = 7) ∨
      (s.ctx.protocolState = .readAck ∧ s.ctx.dataLine = false)

/-- An edge that changes only the registers of the protocol machine. -/
theorem edgeReached_withScratch (s : State) (p v : Byte) (n : Nat) (q : ProtocolState)
    (hpointer : p ≠ s.ctx.registerPointer →
      (s.ctx.protocolState = .getRegNr ∧ s.ctx.bitCount = 7) ∨
        (s.ctx.protocolState = .writeRegs ∧ s.ctx.bitCount = 7) ∨
        (s.ctx.protocolState = .readAck ∧ s.ctx.dataLine = false)) :
    EdgeReached s (s.withScratch p v n q) :=
  ⟨.withScratch s p v n q, fun _ => rfl, hpointer⟩

/-- An edge that leaves the bank and the pointer alone. -/
theorem edgeReached_of_protocol (s : State) (v : Byte) (n : Nat) (q : ProtocolState) :
    EdgeReached s (((s.setShiftRegister v).setBitCount n).setProtocol q) :=
  edgeReached_withScratch s s.ctx.registerPointer v n q fun h => absurd rfl h

/-- One more bit shifted in. -/
theorem edgeReached_shiftIn (s : State) : EdgeReached s s.shiftIn := by
  rw [shiftIn_eq]
  exact edgeReached_of_protocol s s.shifted (s.ctx.bitCount + 1) s.ctx.protocolState

theorem execFallGetAddress_reached {s t : State} (h : execFallGetAddress s = .next t) :
    EdgeReached s t := by
  by_cases h7 : s.ctx.bitCount = 7
  · rw [execFallGetAddress_eighth s h7, selectAddress_spec, shiftIn_eq] at h
    cases h
    exact edgeReached_of_protocol s _ _ _
  · rw [execFallGetAddress_early s h7] at h
    cases h
    exact edgeReached_shiftIn s

theorem execFallGetRegNr_reached {s t : State} (hq : s.ctx.protocolState = .getRegNr)
    (h : execFallGetRegNr s = .next t) : EdgeReached s t := by
  by_cases h7 : s.ctx.bitCount = 7
  · obtain ⟨p, hp⟩ := exists_commitPointer s.shiftIn
    rw [execFallGetRegNr_eighth s h7, hp] at h
    cases h
    exact edgeReached_withScratch s p _ _ _ fun _ => .inl ⟨hq, h7⟩
  · rw [execFallGetRegNr_early s h7] at h
    cases h
    exact edgeReached_shiftIn s

theorem execFallReadRegs_reached {s t : State} (h : execFallReadRegs s = .next t) :
    EdgeReached s t := by
  by_cases h7 : s.ctx.bitCount = 7
  · rw [execFallReadRegs_eighth s h7] at h
    cases h
    exact edgeReached_of_protocol s s.ctx.shiftRegister _ _
  · rw [execFallReadRegs_early s h7] at h
    cases h
    exact edgeReached_of_protocol s s.ctx.shiftRegister (s.ctx.bitCount + 1) s.ctx.protocolState

theorem execFallAddressReadAck_reached {s t : State} (h : execFallAddressReadAck s = .next t) :
    EdgeReached s t := by
  obtain ⟨u, hu, ht⟩ := (andThen_eq_next _ _ _).1 h
  cases bankRead_next hu
  cases ht
  exact edgeReached_of_protocol s _ _ _

theorem execFallReadAck_reached {s t : State} (hq : s.ctx.protocolState = .readAck)
    (h : execFallReadAck s = .next t) : EdgeReached s t := by
  cases hd : s.ctx.dataLine with
  | true =>
    rw [execFallReadAck_nack s hd] at h
    cases h
    exact edgeReached_of_protocol s s.ctx.shiftRegister s.ctx.bitCount .idle
  | false =>
    obtain ⟨p, hp⟩ := exists_incrementPointer s
    simp only [execFallReadAck, hd, Bool.false_eq_true, if_false, hp] at h
    obtain ⟨u, hu, ht⟩ := (andThen_eq_next _ _ _).1 h
    cases bankRead_next hu
    cases ht
    exact edgeReached_withScratch s p _ _ _ fun _ => .inr (.inr ⟨hq, hd⟩)

theorem execFallWriteRegs_reached {s t : State} (hq : s.ctx.protocolState = .writeRegs)
    (h : execFallWriteRegs s = .next t) : EdgeReached s t := by
  by_cases h7 : s.ctx.bitCount = 7
  · rw [execFallWriteRegs_eighth s h7] at h
    obtain ⟨u, hu, ht⟩ := (andThen_eq_next _ _ _).1 h
    have hend : OutsideKept u (u.incrementPointer.setProtocol .writeAck) := by
      obtain ⟨p, hp⟩ := exists_incrementPointer u
      rw [hp]
      exact .withScratch u p _ _ _
    cases ht
    exact ⟨((edgeReached_shiftIn s).outside.trans (bankWrite_next hu).outsideKept).trans hend,
      fun hno => absurd ⟨hq, h7⟩ hno, fun _ => .inr (.inl ⟨hq, h7⟩)⟩
  · rw [execFallWriteRegs_early s h7] at h
    cases h
    exact edgeReached_shiftIn s

/-- What a falling clock edge reaches, in every protocol state. -/
theorem fallingEdge_reached {s t : State} (h : fallingEdge s = .next t) : EdgeReached s t := by
  unfold fallingEdge at h
  cases hq : s.ctx.protocolState <;> rw [hq] at h
  case getAddress => exact execFallGetAddress_reached h
  case addressReadAck => exact execFallAddressReadAck_reached h
  case getRegNr => exact execFallGetRegNr_reached hq h
  case readRegs => exact execFallReadRegs_reached h
  case readAck => exact execFallReadAck_reached hq h
  case writeRegs => exact execFallWriteRegs_reached hq h
  case idle =>
    cases h
    exact edgeReached_of_protocol s s.ctx.shiftRegister s.ctx.bitCount s.ctx.protocolState
  case startWait =>
    cases h
    exact edgeReached_of_protocol s s.ctx.shiftRegister s.ctx.bitCount .getAddress
  case addressWriteAck | regNrAck | writeAck =>
    cases h
    exact edgeReached_of_protocol s 0#8 0 _

/-! ### The bus operations -/

/-- What a bus operation that is no falling edge leaves alone. -/
structure BankAndPointerKept (s t : State) : Prop where
  outside : OutsideKept s t
  bank : s = s.withBank t
  pointer : t.ctx.registerPointer = s.ctx.registerPointer

/-- The bus operations leave the bank and the pointer alone, but for the falling edges. -/
theorem exec_event_reached {code : Byte} {i : Instr} {s t : State} (hd : decode .ev code = .ok i)
    (h : exec i s = .next t) : BankAndPointerKept s t ∨
      (code = 0x00#8 ∧ s.ctx.clockLine = true ∧ EdgeReached (s.setClockLine false) t) := by
  rcases decodeEv_cases hd with ⟨hcode, rfl⟩ | ⟨-, rfl⟩ | ⟨-, rfl⟩ | ⟨-, rfl⟩ | ⟨-, rfl⟩
  · rcases setClock_next_cases (level := false) h with rfl | ⟨-, hc, hfall⟩
    · exact .inl ⟨.of_eq rfl, rfl, rfl⟩
    · exact .inr ⟨hcode, hc, fallingEdge_reached hfall⟩
  · rcases setClock_next_cases (level := true) h with rfl | ⟨hlevel, -⟩
    · exact .inl ⟨.of_eq rfl, rfl, rfl⟩
    · cases hlevel
  · rcases setData_next_cases (level := false) h with rfl | ⟨-, -, -, rfl⟩ | ⟨-, -, -, rfl⟩ <;>
      exact .inl ⟨.of_eq rfl, rfl, rfl⟩
  · rcases setData_next_cases (level := true) h with rfl | ⟨-, -, -, rfl⟩ | ⟨-, -, -, rfl⟩ <;>
      exact .inl ⟨.of_eq rfl, rfl, rfl⟩
  · cases h
    exact .inl ⟨.of_eq rfl, rfl, rfl⟩

/-- A state that is itself with the bank and the time model of another agrees with it on them. -/
theorem bank_of_eq_withBank {s t : State} (h : s = s.withBank t) :
    t.ctx.ram = s.ctx.ram ∧ t.ctx.registers = s.ctx.registers ∧ t.ctx.offset = s.ctx.offset ∧
      t.ctx.haltLatch = s.ctx.haltLatch ∧ t.ctx.halted = s.ctx.halted ∧ t.ctx.amPm = s.ctx.amPm := by
  rw [h]
  exact ⟨rfl, rfl, rfl, rfl, rfl, rfl⟩

/-! ### In `IDLE` -/

/-- A `set_clock` call in `IDLE` stores the level, falling edges included (R125). -/
theorem setClock_idle {s : State} (x : Level) (hq : s.ctx.protocolState = .idle) :
    setClock x s = .next (s.setClockLine x) := by
  by_cases hsame : s.ctx.clockLine = x
  · rw [setClock_same hsame, ← hsame]
    rfl
  · cases x with
    | true => exact setClock_rise (by simpa using hsame)
    | false => rw [setClock_fall (by simpa using hsame), hq]; rfl

/-- A `set_data` call in `IDLE` that is no START stores the level (R126, R127, R129). -/
theorem setData_idle {s : State} (x : Level) (hq : s.ctx.protocolState = .idle)
    (hstart : ¬(x = false ∧ s.ctx.clockLine = true ∧ s.ctx.dataLine = true)) :
    setData x s = .next (s.setDataLine x) := by
  have habort : (s.setDataLine true).abort = s.setDataLine true := by
    simp only [State.abort, State.setProtocol, State.setDataLine, ← hq]
  by_cases hsame : s.ctx.dataLine = x
  · rw [setData_same hsame, ← hsame]
    rfl
  · cases hc : s.ctx.clockLine with
    | false => exact setData_clockLow hc hsame
    | true =>
      cases x with
      | true => rw [setData_stop hc (by simpa using hsame), habort]
      | false => exact absurd ⟨rfl, hc, by simpa using hsame⟩ hstart

/-! ### The obligations -/

/-- Settles O52: only a falling edge reaches the bank or the pointer, and the edges by row. -/
theorem whatABusOperationReaches : Obligations.WhatABusOperationReaches := by
  rintro s t code ⟨hlive, hcode, c, rest, hin⟩ hstep
  obtain ⟨i, hd, -⟩ := decodeEv_ok code hcode
  rw [step_bus hlive hin hd] at hstep
  rcases exec_event_reached hd hstep with ⟨hkept, hbank, hpointer⟩ | ⟨rfl, hc, hkept, hbank, hpointer⟩
  · exact ⟨fun _ => bank_of_eq_withBank (s := s.taken rest c) hbank,
      fun hne => absurd hpointer hne, hkept.baselineRam, hkept.baselineRegisters,
      hkept.baselineOffset⟩
  · have hfall : s.callsFall := ⟨⟨hlive, hcode, c, rest, hin⟩, hc⟩
    exact ⟨fun hno => bank_of_eq_withBank (s := (s.taken rest c).setClockLine false)
        (hbank fun h => hno ⟨hfall, h⟩),
      fun hne => ⟨hfall, hpointer hne⟩, hkept.baselineRam, hkept.baselineRegisters,
      hkept.baselineOffset⟩

/-- Settles O54: in `IDLE` each call stores its level, and the level read is 1. -/
theorem onlyStartLeavesIdle : Obligations.OnlyStartLeavesIdle := by
  rintro s code hidle ⟨hlive, hcode, c, rest, hin⟩ hstart
  obtain ⟨i, hd, -⟩ := decodeEv_ok code hcode
  have hnoStart : code = 0x02#8 → ¬(s.ctx.clockLine = true ∧ s.ctx.dataLine = true) := by
    rintro rfl hlines
    exact hstart ⟨⟨hlive, hcode, c, rest, hin⟩, hlines⟩
  rw [step_bus hlive hin hd]
  rcases decodeEv_cases hd with ⟨rfl, rfl⟩ | ⟨rfl, rfl⟩ | ⟨rfl, rfl⟩ | ⟨rfl, rfl⟩ | ⟨-, rfl⟩
  · exact ⟨_, setClock_idle false hidle, rfl, by simp⟩
  · exact ⟨_, setClock_idle true hidle, rfl, by simp⟩
  · exact ⟨_, setData_idle (s := s.taken rest c) false hidle fun h => hnoStart rfl h.2, rfl, by simp⟩
  · exact ⟨_, setData_idle (s := s.taken rest c) true hidle (by simp), rfl, by simp⟩
  · have hlevel : s.ctx.drivenLevel = true := by simp [Context.drivenLevel, hidle, ProtocolState.isAck]
    exact ⟨_, rfl, rfl, fun _ => ⟨congrArg some hlevel, rfl⟩⟩

end Sys2Proof.Machine

/-! # Where the host clock is seen

An operation run with another answer of the host clock leaves the same state but for that answer, unless
it queries a part in which the two differ. -/

namespace Sys2Proof.Machine

/-! ### An operation with another answer of the host clock -/

/-- The state with the host clock answering `h`. -/
def State.withHost (s : State) (h : HostClock) : State := { s with host := h }

/-- A result with the host clock answering `h` in its next state. -/
def hostAfter (h : HostClock) (r : Result) : Result :=
  andThen r fun t => .next (t.withHost h)

/-- From `s`, an operation does the same whether the host clock answers as in `s` or `h`. -/
def HostBlindAt (f : State → Result) (s : State) (h : HostClock) : Prop :=
  f (s.withHost h) = hostAfter h (f s)

/-- An operation after a result does the same if it does so from every state. -/
theorem andThen_hostAfter {f : State → Result} {h : HostClock} (hf : ∀ t, HostBlindAt f t h)
    (r : Result) : andThen (hostAfter h r) f = hostAfter h (andThen r f) := by
  cases r with
  | next t => exact hf t
  | fault e => rfl
  | refused e => rfl

/-! ### The time model -/

/-- The virtual time of a halted clock does not depend on the host clock (R226). -/
theorem virtualNow_withHost {s : State} {h : HostClock}
    (hnow : s.ctx.halted = true ∨ s.host.now = h.now) : (s.withHost h).virtualNow = s.virtualNow := by
  rcases hnow with hhalted | hnow
  · exact (virtualNow_halted (s := s.withHost h) hhalted).trans (virtualNow_halted hhalted).symm
  · simp only [State.virtualNow, State.runningTime, State.withHost, hnow]
    rfl

theorem withTime_withHost (s : State) (t : Int) {h : HostClock}
    (hnow : s.ctx.halted = true ∨ s.host.now = h.now) :
    (s.withHost h).withTime t = (s.withTime t).withHost h := by
  have hvirtual := virtualNow_withHost hnow
  unfold State.withTime
  rw [hvirtual, apply_ite (State.withHost · h)]
  rfl

/-- A field write of a halted clock does not query the host clock (R199, R222). -/
theorem applyField_withHost {s : State} {h : HostClock} (f : Field) (v : Byte) (b : Bool)
    (hnow : s.ctx.halted = true ∨ s.host.now = h.now) :
    (s.withHost h).applyField f v b = (s.applyField f v b).withHost h := by
  rw [applyField_eq, applyField_eq, virtualNow_withHost hnow, withTime_withHost s _ hnow]
  rfl

/-- A control write whose request is the halt flag only stores the byte (R191). -/
theorem execWControl_stored {s : State} (h : haltRequest s.ctx.shiftRegister = s.ctx.halted) :
    execWControl s = .next (s.setRegister 0 s.ctx.shiftRegister) := by
  simp only [execWControl, h]
  cases s.ctx.halted <;> rfl

/-- A control write that neither halts nor resumes does not query the host clock (R191, R222). -/
theorem execWControl_withHost {s : State} {h : HostClock}
    (hnow : haltRequest s.ctx.shiftRegister = s.ctx.halted ∨ s.host.now = h.now) :
    HostBlindAt execWControl s h := by
  unfold HostBlindAt
  rcases hnow with hstored | hnow
  · rw [execWControl_stored hstored, execWControl_stored (s := s.withHost h) hstored]
    rfl
  · have hhalt : (s.withHost h).halt = s.halt.withHost h := by
      simp only [State.halt, State.withHost, hnow]
      rfl
    have hresume : (s.withHost h).resume = s.resume.withHost h := by
      simp only [State.resume, State.withHost, hnow]
      rfl
    have hctx : (s.withHost h).ctx = s.ctx := rfl
    simp only [execWControl, hhalt, hresume, hctx, ← apply_ite (State.withHost · h)]
    rfl

theorem execWHours_withHost {s : State} {h : HostClock}
    (hnow : s.ctx.halted = true ∨ s.host.now = h.now) : HostBlindAt execWHours s h := by
  have hmode (m : Bool) : (s.withHost h).setAmPm m = (s.setAmPm m).withHost h := rfl
  have hfield (m : Bool) (f : Field) (v : Byte) :=
    applyField_withHost (s := s.setAmPm m) f v true hnow
  have hbyte : (s.withHost h).ctx.shiftRegister = s.ctx.shiftRegister := rfl
  simp only [HostBlindAt, execWHours, hmode, hbyte, hfield, ← apply_ite (State.withHost · h)]
  rfl

/-- A field write keeps what decides whether the next one queries the host clock. -/
theorem applyField_seesHost {s : State} {h : HostClock} (f : Field) (v : Byte) (b : Bool)
    (hnow : s.ctx.halted = true ∨ s.host.now = h.now) :
    (s.applyField f v b).ctx.halted = true ∨ (s.applyField f v b).host.now = h.now := by
  rw [applyField_eq, withTime_halted, withTime_host]
  exact hnow

theorem execWYearDate_withHost {s : State} {h : HostClock}
    (hnow : s.ctx.halted = true ∨ s.host.now = h.now) : HostBlindAt execWYearDate s h := by
  have hday := applyField_withHost .dayOfMonth (dayOperand s.ctx.shiftRegister) true hnow
  have hnow' := applyField_seesHost .dayOfMonth (dayOperand s.ctx.shiftRegister) true hnow
  have hbyte : (s.withHost h).ctx.shiftRegister = s.ctx.shiftRegister := rfl
  simp only [HostBlindAt, execWYearDate, hbyte, hday, virtualNow_withHost hnow',
    applyField_withHost _ _ _ hnow']
  rfl

theorem execWWeekdayMonth_withHost {s : State} {h : HostClock}
    (hnow : s.ctx.halted = true ∨ s.host.now = h.now) : HostBlindAt execWWeekdayMonth s h := by
  have hmonth := applyField_withHost .month (monthOperand s.ctx.shiftRegister) true hnow
  have hnow' := applyField_seesHost .month (monthOperand s.ctx.shiftRegister) true hnow
  have hbyte : (s.withHost h).ctx.shiftRegister = s.ctx.shiftRegister := rfl
  simp only [HostBlindAt, execWWeekdayMonth, hbyte, hmonth, applyField_withHost _ _ _ hnow']
  rfl

/-! ### The bank write -/

/-- A bank write at `a` does not query `host_now`, or the two clocks agree in it: a control write that
neither halts nor resumes, a field write of a halted clock, any other address (R222). -/
structure WriteBlind (a : Byte) (s : State) (h : HostClock) : Prop where
  control : a = 0 → haltRequest s.ctx.shiftRegister = s.ctx.halted ∨ s.host.now = h.now
  field : 2 ≤ a.toNat → a.toNat ≤ 6 → s.ctx.halted = true ∨ s.host.now = h.now

/-- A bank write does the same with another answer of the host clock that it does not query (R222). -/
theorem bankWrite_withHost {a : Byte} {s : State} {h : HostClock} (hblind : WriteBlind a s h) :
    HostBlindAt (bankWrite a) s h := by
  obtain ⟨hcontrol, hfield⟩ := hblind
  by_cases ha : a.toNat < 16
  · obtain ⟨n, rfl⟩ := exists_fin_of_lt ha
    clear ha
    fin_cases n
    · exact execWControl_withHost (hcontrol rfl)
    · rfl
    · exact congrArg Host.Outcome.next
        (applyField_withHost _ _ _ (hfield (by decide) (by decide)))
    · exact congrArg Host.Outcome.next
        (applyField_withHost _ _ _ (hfield (by decide) (by decide)))
    · exact execWHours_withHost (hfield (by decide) (by decide))
    · exact execWYearDate_withHost (hfield (by decide) (by decide))
    · exact execWWeekdayMonth_withHost (hfield (by decide) (by decide))
    all_goals rfl
  · unfold HostBlindAt
    rw [bankWrite_ram a _ (by omega), bankWrite_ram a _ (by omega)]
    unfold storeRam
    rw [apply_ite (hostAfter h)]
    rfl

/-! ### The falling edge and the START -/

theorem execFallGetAddress_withHost (s : State) (h : HostClock) :
    HostBlindAt execFallGetAddress s h := by
  unfold HostBlindAt
  by_cases h7 : s.ctx.bitCount = 7
  · simp only [execFallGetAddress_eighth s h7, execFallGetAddress_eighth (s.withHost h) h7,
      selectAddress_spec]
    rfl
  · simp only [execFallGetAddress_early s h7, execFallGetAddress_early (s.withHost h) h7]
    rfl

theorem execFallGetRegNr_withHost (s : State) (h : HostClock) : HostBlindAt execFallGetRegNr s h := by
  unfold HostBlindAt
  by_cases h7 : s.ctx.bitCount = 7
  · simp only [execFallGetRegNr_eighth s h7, execFallGetRegNr_eighth (s.withHost h) h7]
    rfl
  · simp only [execFallGetRegNr_early s h7, execFallGetRegNr_early (s.withHost h) h7]
    rfl

theorem execFallReadRegs_withHost (s : State) (h : HostClock) : HostBlindAt execFallReadRegs s h := by
  unfold HostBlindAt
  by_cases h7 : s.ctx.bitCount = 7
  · simp only [execFallReadRegs_eighth s h7, execFallReadRegs_eighth (s.withHost h) h7]
    rfl
  · simp only [execFallReadRegs_early s h7, execFallReadRegs_early (s.withHost h) h7]
    rfl

theorem execFallAddressReadAck_withHost {s : State} (h : HostClock) (hs : s.Inv) :
    HostBlindAt execFallAddressReadAck s h := by
  unfold HostBlindAt
  rw [execFallAddressReadAck_spec s hs.pointer, execFallAddressReadAck_spec (s.withHost h) hs.pointer]
  rfl

theorem execFallReadAck_withHost {s : State} (h : HostClock) (hs : s.Inv) :
    HostBlindAt execFallReadAck s h := by
  obtain ⟨h0, h256⟩ := hs.addrSpace_bounds
  unfold HostBlindAt
  cases hd : s.ctx.dataLine with
  | true =>
    rw [execFallReadAck_nack s hd, execFallReadAck_nack (s.withHost h) hd]
    rfl
  | false =>
    rw [execFallReadAck_ack s hd h0 h256, execFallReadAck_ack (s.withHost h) hd h0 h256]
    rfl

/-- The end of a write, the pointer advanced and the byte acknowledged, does not query the host clock
(R120). -/
theorem enterWriteAck_withHost (s : State) (h : HostClock) :
    HostBlindAt (fun t => .next (t.incrementPointer.setProtocol .writeAck)) s h := rfl

theorem execFallWriteRegs_withHost {s : State} {h : HostClock}
    (hwrite : s.ctx.bitCount = 7 → WriteBlind s.ctx.registerPointer s.shiftIn h) :
    HostBlindAt execFallWriteRegs s h := by
  unfold HostBlindAt
  by_cases h7 : s.ctx.bitCount = 7
  · have hshift : (s.withHost h).shiftIn = s.shiftIn.withHost h := rfl
    have hbank : bankWrite s.ctx.registerPointer (s.shiftIn.withHost h) =
        hostAfter h (bankWrite s.ctx.registerPointer s.shiftIn) := bankWrite_withHost (hwrite h7)
    rw [execFallWriteRegs_eighth s h7, execFallWriteRegs_eighth (s.withHost h) h7, hshift]
    exact (congrArg (andThen · _) hbank).trans
      (andThen_hostAfter (fun t => enterWriteAck_withHost t h) _)
  · rw [execFallWriteRegs_early s h7, execFallWriteRegs_early (s.withHost h) h7]
    rfl

/-- A falling edge does the same with another answer of the host clock, if the bank write at the eighth
bit of a written byte does (R222). -/
theorem fallingEdge_withHost {s : State} {h : HostClock} (hs : s.Inv)
    (hwrite : s.ctx.protocolState = .writeRegs → s.ctx.bitCount = 7 →
      WriteBlind s.ctx.registerPointer s.shiftIn h) : HostBlindAt fallingEdge s h := by
  have hstate : (s.withHost h).ctx.protocolState = s.ctx.protocolState := rfl
  unfold HostBlindAt fallingEdge
  rw [hstate]
  cases hq : s.ctx.protocolState with
  | getAddress => exact execFallGetAddress_withHost s h
  | addressReadAck => exact execFallAddressReadAck_withHost h hs
  | getRegNr => exact execFallGetRegNr_withHost s h
  | readRegs => exact execFallReadRegs_withHost s h
  | readAck => exact execFallReadAck_withHost h hs
  | writeRegs => exact execFallWriteRegs_withHost (hwrite hq)
  | idle | startWait | addressWriteAck | regNrAck | writeAck => rfl

/-- A START shows the same with another answer of the host clock that has the same hundredths, and the
same seconds if the clock runs (R160, R222). -/
theorem started_withHost {s : State} {h : HostClock} (hcs : s.host.cs = h.cs)
    (hnow : s.ctx.halted = true ∨ s.host.now = h.now) :
    (s.withHost h).started = s.started.withHost h := by
  have hcentiseconds : (s.withHost h).snapshotCentiseconds = s.snapshotCentiseconds :=
    congrArg (fun cs : Fin 100 => getCentisecond cs true) hcs.symm
  have hsnapshot : (s.withHost h).snapshot = s.snapshot := by
    simp only [State.snapshot, hcentiseconds, virtualNow_withHost hnow]
    rfl
  have hbuild : (s.withHost h).started =
      (((s.withHost h).setDataLine false).setSnapshot (s.withHost h).snapshot).resetShift.setProtocol
        .startWait := rfl
  rw [hbuild, hsnapshot]
  rfl

/-! ### The bus operations -/

theorem setClock_withHost {s : State} {h : HostClock} (x : Level) (hs : s.Inv)
    (hwrite : x = false → s.ctx.clockLine = true → s.ctx.protocolState = .writeRegs →
      s.ctx.bitCount = 7 → WriteBlind s.ctx.registerPointer s.shiftIn h) :
    HostBlindAt (setClock x) s h := by
  unfold HostBlindAt
  by_cases hsame : s.ctx.clockLine = x
  · rw [setClock_same hsame, setClock_same (s := s.withHost h) hsame]
    rfl
  · cases x with
    | true =>
      have hc : s.ctx.clockLine = false := by simpa using hsame
      rw [setClock_rise hc, setClock_rise (s := s.withHost h) hc]
      rfl
    | false =>
      have hc : s.ctx.clockLine = true := by simpa using hsame
      rw [setClock_fallingEdge hc, setClock_fallingEdge (s := s.withHost h) hc]
      refine fallingEdge_withHost (hs.setClockLine false) fun hq h7 => ?_
      obtain ⟨hcontrol, hfield⟩ := hwrite rfl hc hq h7
      exact ⟨hcontrol, hfield⟩

theorem setData_withHost {s : State} {h : HostClock} (x : Level)
    (hstart : x = false → s.ctx.clockLine = true → s.ctx.dataLine = true →
      s.host.cs = h.cs ∧ (s.ctx.halted = true ∨ s.host.now = h.now)) :
    HostBlindAt (setData x) s h := by
  unfold HostBlindAt
  by_cases hsame : s.ctx.dataLine = x
  · rw [setData_same hsame, setData_same (s := s.withHost h) hsame]
    rfl
  · cases hc : s.ctx.clockLine with
    | false =>
      rw [setData_clockLow hc hsame, setData_clockLow (s := s.withHost h) hc hsame]
      rfl
    | true =>
      cases x with
      | true =>
        have hd : s.ctx.dataLine = false := by simpa using hsame
        rw [setData_stop hc hd, setData_stop (s := s.withHost h) hc hd]
        rfl
      | false =>
        have hd : s.ctx.dataLine = true := by simpa using hsame
        obtain ⟨hcs, hnow⟩ := hstart rfl hc hd
        rw [setData_start hc hd, setData_start (s := s.withHost h) hc hd, started_withHost hcs hnow]
        rfl

/-- Bit 7 of the byte at its eighth bit is bit 6 of the seven bits already in (R114). -/
theorem shiftIn_haltRequest (s : State) :
    haltRequest s.shiftIn.ctx.shiftRegister = s.ctx.shiftRegister.getLsbD 6 := by
  have hbit (v : Byte) (x : Level) :
      haltRequest ((v <<< 1) ||| (if x then 1#8 else 0#8)) = v.getLsbD 6 := by
    revert v x; decide
  exact hbit s.ctx.shiftRegister s.ctx.dataLine

/-! ### The obligation -/

/-- A written byte whose call queries no `host_now` in which the clocks differ (R222). -/
theorem writeBlind_of_queriesNow {s : State} {h h' : HostClock} {rest : List Input}
    (hcall : s.callsWrite) (hnow : s.queriesNow → h.now = h'.now) :
    WriteBlind s.ctx.registerPointer (s.taken rest h).shiftIn h' := by
  refine ⟨fun ha => ?_, fun h2 h6 => ?_⟩
  · by_cases hsame : s.ctx.shiftRegister.getLsbD 6 = s.ctx.halted
    · exact .inl ((shiftIn_haltRequest (s.taken rest h)).trans hsame)
    · exact .inr (hnow (.inr (.inl ⟨hcall, ha, hsame⟩)))
  · cases hhalted : s.ctx.halted with
    | true => exact .inl hhalted
    | false => exact .inr (hnow (.inr (.inr ⟨hcall, h2, h6, hhalted⟩)))

/-- Settles O53: the operation does the same from the two states, which differ in the host clock alone,
because what it queries of the clock is the same. -/
theorem hostClockSeenOnlyWhenQueried : Obligations.HostClockSeenOnlyWhenQueried := by
  intro s code h h' rest hs hlive hcode hin hcs hnow
  obtain ⟨i, hd, -⟩ := decodeEv_ok code hcode
  have hu := hs.taken rest h
  have hcalls : s.calls code := ⟨hlive, hcode, h, rest, hin⟩
  have hblind : HostBlindAt (exec i) (s.taken rest h) h' := by
    rcases decodeEv_cases hd with ⟨rfl, rfl⟩ | ⟨-, rfl⟩ | ⟨rfl, rfl⟩ | ⟨-, rfl⟩ | ⟨-, rfl⟩
    · refine setClock_withHost false hu fun _ hc hq h7 => ?_
      have hcall : s.callsWrite := ⟨⟨hcalls, hc⟩, hq, h7⟩
      exact writeBlind_of_queriesNow (s := s) hcall hnow
    · exact setClock_withHost true hu (by simp)
    · refine setData_withHost false fun _ hc hdata => ?_
      have hstart : s.callsStart := ⟨hcalls, hc, hdata⟩
      refine ⟨hcs hstart, ?_⟩
      cases hhalted : s.ctx.halted with
      | true => exact .inl hhalted
      | false => exact .inr (hnow (.inl ⟨hstart, hhalted⟩))
    · exact setData_withHost true (by simp)
    · rfl
  obtain ⟨t, ht, -⟩ := exec_event_completesInv hd hu
  refine ⟨t, (step_bus hlive hin hd).trans ht, ?_⟩
  rw [step_bus (s := { s with inputs := .bus code h' :: rest }) hlive rfl hd]
  exact hblind.trans (congrArg (hostAfter h') ht)

end Sys2Proof.Machine

/-! # Traces of bus operations

A trace is followed with the property its end has, whatever the host clock answers along it: first one
call at a time, then a bit cell, a byte, an acknowledge cell. -/

namespace Sys2Proof.Machine

/-! ### Following a trace -/

/-- From `s`, every trace of these event codes completes in a state with the property `P`. -/
def Runs (codes : List Byte) (s : State) (P : State → Prop) : Prop :=
  ∀ trace : List (Byte × HostClock), trace.map Prod.fst = codes →
    ∃ t, runTrace trace s = .next t ∧ P t

theorem Runs.nil {s : State} {P : State → Prop} (h : P s) : Runs [] s P := by
  intro trace htrace
  rw [List.map_eq_nil_iff.1 htrace]
  exact ⟨s, rfl, h⟩

/-- A weaker property of the end. -/
theorem Runs.mono {codes : List Byte} {s : State} {P Q : State → Prop} (h : Runs codes s P)
    (himp : ∀ t, P t → Q t) : Runs codes s Q := by
  intro trace htrace
  obtain ⟨t, ht, hP⟩ := h trace htrace
  exact ⟨t, ht, himp t hP⟩

/-- The first call of a trace, with any answer of the host clock, and the trace after it. -/
theorem Runs.cons {code : Byte} {codes : List Byte} {i : Instr} {s : State} {P : State → Prop}
    (hlive : s.live = true) (hd : decode .ev code = .ok i)
    (hrun : ∀ c, ∃ u, exec i (s.taken [] c) = .next u ∧ Runs codes u P) :
    Runs (code :: codes) s P := by
  intro trace htrace
  obtain ⟨⟨code', c⟩, rest, rfl, hcode, hrest⟩ := List.map_eq_cons_iff.1 htrace
  obtain rfl : code' = code := hcode
  obtain ⟨u, hu, hcodes⟩ := hrun c
  obtain ⟨t, ht, hP⟩ := hcodes rest hrest
  have hstep : step { s with inputs := [.bus code' c] } = .next u :=
    (step_bus (s := { s with inputs := [.bus code' c] }) hlive rfl hd).trans hu
  exact ⟨t, by rw [runTrace, hstep, andThen_next, ht], hP⟩

/-- A trace is run by running its parts one after another. -/
theorem runTrace_append (a b : List (Byte × HostClock)) (s : State) :
    runTrace (a ++ b) s = andThen (runTrace a s) (runTrace b) := by
  induction a generalizing s with
  | nil => rfl
  | cons call a ih =>
    rw [List.cons_append, runTrace, runTrace]
    cases step { s with inputs := [.bus call.1 call.2] } with
    | next t => exact ih t
    | fault e => rfl
    | refused e => rfl

/-- Two traces one after the other. -/
theorem Runs.append {a b : List Byte} {s : State} {P Q : State → Prop} (ha : Runs a s P)
    (hb : ∀ t, P t → Runs b t Q) : Runs (a ++ b) s Q := by
  intro trace htrace
  obtain ⟨ta, tb, rfl, hta, htb⟩ := List.map_eq_append_iff.1 htrace
  obtain ⟨t, ht, hP⟩ := ha ta hta
  obtain ⟨u, hu, hQ⟩ := hb t hP tb htb
  exact ⟨u, by rw [runTrace_append, ht, andThen_next, hu], hQ⟩

/-! ### Single calls -/

/-- A line set to the level it has (R110). -/
theorem setClockLine_self {s : State} {x : Level} (h : s.ctx.clockLine = x) : s.setClockLine x = s := by
  rw [← h]
  rfl

/-- After `set_clock(1)` the clock is high and nothing else changed (R110, R111). -/
theorem setClock_high (s : State) : setClock true s = .next (s.setClockLine true) := by
  cases hc : s.ctx.clockLine with
  | true => rw [setClock_same hc, setClockLine_self hc]
  | false => exact setClock_rise hc

/-- With the clock low `set_data` stores its level and nothing else changes (R126, R127). -/
theorem setData_low {s : State} (x : Level) (hc : s.ctx.clockLine = false) :
    setData x s = .next (s.setDataLine x) := by
  by_cases hsame : s.ctx.dataLine = x
  · rw [setData_same hsame, ← hsame]
    rfl
  · exact setData_clockLow hc hsame

/-- A falling edge with the clock line low again (R112). -/
theorem exec_c0_falls {u v : State} (hc : u.ctx.clockLine = true) (hv : u.setClockLine false = v) :
    exec .c0 u = fallingEdge v :=
  (setClock_fallingEdge hc).trans (congrArg fallingEdge hv)

/-- The code of a `set_data` call (R104). -/
theorem decode_setData (x : Level) :
    decode .ev (if x then 0x03#8 else 0x02#8) = .ok (if x then .d1 else .d0) := by
  cases x <;> rfl

/-! ### Cells -/

/-- A clock pulse from a low clock is the falling edge of the protocol state. -/
theorem runs_pulse {s : State} {P : State → Prop} (hlive : s.live = true)
    (hc : s.ctx.clockLine = false)
    (hedge : ∀ c, ∃ t, fallingEdge (s.taken [] c) = .next t ∧ P t) : Runs [0x01#8, 0x00#8] s P := by
  refine Runs.cons hlive (i := .c1) rfl fun c => ⟨_, setClock_high _, ?_⟩
  refine Runs.cons hlive (i := .c0) rfl fun c' => ?_
  obtain ⟨t, ht, hP⟩ := hedge c'
  have hlow := setClockLine_self (s := s.taken [] c') hc
  refine ⟨t, Eq.trans (exec_c0_falls ?_ ?_) ht, Runs.nil hP⟩
  · rfl
  · exact hlow

/-- A bit cell from a low clock is the falling edge with the data line at its level (R105). -/
theorem runs_bitCell {s : State} {x : Level} {P : State → Prop} (hlive : s.live = true)
    (hc : s.ctx.clockLine = false)
    (hedge : ∀ c, ∃ t, fallingEdge ((s.taken [] c).setDataLine x) = .next t ∧ P t) :
    Runs (bitCell x) s P :=
  Runs.cons hlive (decode_setData x) fun c =>
    ⟨_, (exec_setData x _).trans (setData_low (s := s.taken [] c) x hc), runs_pulse hlive hc hedge⟩

/-- An acknowledge cell from a low clock is the falling edge with the data line released and the level
read (R105). -/
theorem runs_ackCell {s : State} {P : State → Prop} (hlive : s.live = true)
    (hc : s.ctx.clockLine = false)
    (hedge : ∀ c l, ∃ t, fallingEdge (((s.taken [] c).setDataLine true).setResult l) = .next t ∧ P t) :
    Runs [0x03#8, 0x01#8, 0x04#8, 0x00#8] s P := by
  refine Runs.cons hlive (i := .d1) rfl fun c => ⟨_, setData_low (s := s.taken [] c) true hc, ?_⟩
  refine Runs.cons hlive (i := .c1) rfl fun c => ⟨_, setClock_high _, ?_⟩
  refine Runs.cons hlive (i := .r) rfl fun c => ⟨_, rfl, ?_⟩
  refine Runs.cons hlive (i := .c0) rfl fun c => ?_
  obtain ⟨t, ht, hP⟩ := hedge c ((s.setDataLine true).setClockLine true).ctx.drivenLevel
  have hlow (l : Level) :=
    setClockLine_self (s := ((s.taken [] c).setDataLine true).setResult l) (x := false) hc
  refine ⟨t, Eq.trans (exec_c0_falls ?_ ?_) ht, Runs.nil hP⟩
  · rfl
  · exact hlow _

/-! ### What a trace keeps -/

/-- The parameters, the device and the storage are as they were. -/
structure StorageKept (s t : State) : Prop where
  params : t.params = s.params
  live : t.live = s.live
  ram : t.ctx.ram = s.ctx.ram
  registers : t.ctx.registers = s.ctx.registers

theorem StorageKept.trans {s t u : State} (h : StorageKept s t) (k : StorageKept t u) :
    StorageKept s u :=
  ⟨k.params.trans h.params, k.live.trans h.live, k.ram.trans h.ram, k.registers.trans h.registers⟩

/-- `t` is `s` with `n` bits of a byte in and `v` shifted so far, in the same protocol state, at a low
clock. -/
structure InByte (s : State) (n : Nat) (v : Byte) (t : State) : Prop where
  kept : StorageKept s t
  pointer : t.ctx.registerPointer = s.ctx.registerPointer
  protocol : t.ctx.protocolState = s.ctx.protocolState
  bitCount : t.ctx.bitCount = n
  shift : t.ctx.shiftRegister = v
  clock : t.ctx.clockLine = false

/-- `t` is `s` at the eighth falling edge of a byte, with the last bit of `v` on the data line. -/
structure LastBit (s : State) (v : Byte) (t : State) : Prop where
  kept : StorageKept s t
  pointer : t.ctx.registerPointer = s.ctx.registerPointer
  protocol : t.ctx.protocolState = s.ctx.protocolState
  bitCount : t.ctx.bitCount = 7
  shifted : t.shifted = v
  clock : t.ctx.clockLine = false

/-- `t` is `s` with the storage and the pointer as they were, at the start of a byte in the protocol state
`q`, at a low clock. -/
structure Ready (q : ProtocolState) (s t : State) : Prop where
  kept : StorageKept s t
  pointer : t.ctx.registerPointer = s.ctx.registerPointer
  protocol : t.ctx.protocolState = q
  bitCount : t.ctx.bitCount = 0
  clock : t.ctx.clockLine = false

/-! ### A byte received -/

/-- The states that receive a byte (R112). -/
def receiveStates : List ProtocolState := [.getAddress, .getRegNr, .writeRegs]

/-- Before the eighth bit a falling edge in a receive state shifts the bit in (R116, R118, R120). -/
theorem fallingEdge_receive_early {s : State} (hq : s.ctx.protocolState ∈ receiveStates)
    (h7 : s.ctx.bitCount ≠ 7) : fallingEdge s = .next s.shiftIn := by
  simp only [receiveStates, List.mem_cons, List.not_mem_nil, or_false] at hq
  unfold fallingEdge
  rcases hq with hq | hq | hq <;> rw [hq]
  · exact execFallGetAddress_early s h7
  · exact execFallGetRegNr_early s h7
  · exact execFallWriteRegs_early s h7

/-- A byte with bits shifted in one after another (R114). -/
def shiftBits (v : Byte) (bits : List Level) : Byte :=
  bits.foldl (fun a x => BitVec.ofNat 8 (2 * a.toNat + x.toNat)) v

/-- The bits of a byte but for its last, bit 7 first (R85). -/
def firstBits (v : Byte) : List Level :=
  [v.getLsbD 7, v.getLsbD 6, v.getLsbD 5, v.getLsbD 4, v.getLsbD 3, v.getLsbD 2, v.getLsbD 1]

/-- The cells of a byte are those of its first seven bits and the one of its last. -/
theorem byteCells_eq (v : Byte) :
    byteCells v = (firstBits v).flatMap bitCell ++ bitCell (v.getLsbD 0) := by
  simp [byteCells, firstBits]

/-- A byte is the sum of its bits. -/
theorem toNat_eq_bits (v : Byte) : v.toNat = 128 * (v.getLsbD 7).toNat + 64 * (v.getLsbD 6).toNat +
    32 * (v.getLsbD 5).toNat + 16 * (v.getLsbD 4).toNat + 8 * (v.getLsbD 3).toNat +
    4 * (v.getLsbD 2).toNat + 2 * (v.getLsbD 1).toNat + (v.getLsbD 0).toNat := by
  revert v; decide

/-- The eight bits of a byte, shifted in bit 7 first, push every older bit out (R114). -/
theorem shiftBits_byte (v w : Byte) :
    BitVec.ofNat 8 (2 * (shiftBits w (firstBits v)).toNat + (v.getLsbD 0).toNat) = v := by
  have hbits := toNat_eq_bits v
  have hlt := v.isLt
  refine BitVec.eq_of_toNat_eq ?_
  simp only [shiftBits, firstBits, List.foldl_cons, List.foldl_nil, BitVec.toNat_ofNat]
  omega

/-- The cells of some bits, received before the eighth. -/
theorem runs_receiveBits {s₀ s : State} {n : Nat} {v : Byte} (bits : List Level)
    (hq : s₀.ctx.protocolState ∈ receiveStates) (hlive : s₀.live = true) (hs : InByte s₀ n v s)
    (hn : n + bits.length ≤ 7) :
    Runs (bits.flatMap bitCell) s (InByte s₀ (n + bits.length) (shiftBits v bits)) := by
  induction bits generalizing s n v with
  | nil => exact Runs.nil hs
  | cons x bits ih =>
    obtain ⟨hkept, hpointer, hprotocol, hcount, hshift, hclock⟩ := hs
    rw [List.length_cons] at hn
    refine Runs.append (runs_bitCell (P := InByte s₀ (n + 1) (shiftBits v [x]))
      (hkept.live.trans hlive) hclock fun c => ?_) fun t ht => ?_
    · have hq' : ((s.taken [] c).setDataLine x).ctx.protocolState ∈ receiveStates := by
        rw [← hprotocol] at hq
        exact hq
      have h7 : ((s.taken [] c).setDataLine x).ctx.bitCount ≠ 7 := by
        show s.ctx.bitCount ≠ 7
        omega
      refine ⟨_, fallingEdge_receive_early hq' h7, ?_⟩
      rw [shiftIn_next]
      refine ⟨⟨hkept.params, hkept.live, hkept.ram, hkept.registers⟩, hpointer, hprotocol,
        congrArg (· + 1) hcount, ?_, hclock⟩
      rw [← hshift]
      rfl
    · have hrest := ih ht (by omega)
      rw [Nat.add_assoc, Nat.add_comm 1] at hrest
      exact hrest

/-- The eight cells of a byte in a receive state end in the eighth falling edge. -/
theorem runs_byteCells {s : State} {v : Byte} {P : State → Prop}
    (hq : s.ctx.protocolState ∈ receiveStates) (hlive : s.live = true) (hcount : s.ctx.bitCount = 0)
    (hclock : s.ctx.clockLine = false)
    (hedge : ∀ u, LastBit s v u → ∃ t, fallingEdge u = .next t ∧ P t) : Runs (byteCells v) s P := by
  rw [byteCells_eq]
  have hstart : InByte s 0 s.ctx.shiftRegister s :=
    ⟨⟨rfl, rfl, rfl, rfl⟩, rfl, rfl, hcount, rfl, hclock⟩
  refine Runs.append (runs_receiveBits (firstBits v) hq hlive hstart (Nat.le_refl 7)) fun t ht => ?_
  obtain ⟨hkept, hpointer, hprotocol, hcount, hshift, hclock⟩ := ht
  refine runs_bitCell (hkept.live.trans hlive) hclock fun c => hedge _ ?_
  refine ⟨⟨hkept.params, hkept.live, hkept.ram, hkept.registers⟩, hpointer, hprotocol, hcount, ?_, hclock⟩
  have hlast : ((t.taken [] c).setDataLine (v.getLsbD 0)).shifted =
      BitVec.ofNat 8 (2 * t.ctx.shiftRegister.toNat + (v.getLsbD 0).toNat) := rfl
  rw [hlast, hshift]
  exact shiftBits_byte v s.ctx.shiftRegister

/-! ### The eighth falling edge of a byte -/

/-- The eighth edge of an address byte selects by the byte (R116). -/
theorem fallingEdge_address {s u : State} {v : Byte} (h : LastBit s v u)
    (hq : s.ctx.protocolState = .getAddress) : fallingEdge u = .next (u.shiftIn.setProtocol
      (if v = 0xA0#8 then .addressWriteAck else if v = 0xA1#8 then .addressReadAck else .idle)) := by
  have hbyte : u.shiftIn.ctx.shiftRegister = v := 
    (congrArg (fun x : State => x.ctx.shiftRegister) (shiftIn_next u)).trans h.shifted
  unfold fallingEdge
  rw [h.protocol, hq]
  exact (execFallGetAddress_eighth u h.bitCount).trans ((selectAddress_spec _).trans (by rw [hbyte]))

/-- The eighth edge of a pointer byte commits it (R118). -/
theorem fallingEdge_pointer {s u : State} {v : Byte} (h : LastBit s v u)
    (hq : s.ctx.protocolState = .getRegNr) :
    fallingEdge u = .next (u.shiftIn.commitPointer.setProtocol .regNrAck) := by
  unfold fallingEdge
  rw [h.protocol, hq]
  exact execFallGetRegNr_eighth u h.bitCount

/-- The eighth edge of a data byte writes it and advances the pointer (R120). -/
theorem fallingEdge_data {s u : State} {v : Byte} (h : LastBit s v u)
    (hq : s.ctx.protocolState = .writeRegs) (hp : s.ctx.registerPointer.toNat < s.addrSpace) :
    ∃ w, BankWritten s.ctx.registerPointer u.shiftIn w ∧
      fallingEdge u = .next (w.incrementPointer.setProtocol .writeAck) := by
  have hspace : u.shiftIn.addrSpace = s.addrSpace :=
    addrSpace_of_params_eq (t := u.shiftIn) h.kept.params
  obtain ⟨w, hw, hwritten⟩ := bankWrite_spec s.ctx.registerPointer u.shiftIn (hspace ▸ hp)
  refine ⟨w, hwritten, ?_⟩
  unfold fallingEdge
  rw [h.protocol, hq]
  exact (execFallWriteRegs_eighth u h.bitCount).trans (by rw [h.pointer, hw, andThen_next])

/-! ### The obligations on bytes -/

/-- The state is out of a receive state with the byte `v` in, at a low clock. -/
def ByteIn (v : Byte) (t : State) : Prop :=
  t.ctx.shiftRegister = v ∧ t.ctx.bitCount = 8 ∧
    t.ctx.protocolState ∈ [.addressWriteAck, .addressReadAck, .idle, .regNrAck, .writeAck] ∧
    t.ctx.clockLine = false

/-- A state that has the byte, the count and the clock of a last bit shifted in has the byte in. -/
theorem byteIn_of_lastBit {s u t : State} {v : Byte} (h : LastBit s v u)
    (hshift : t.ctx.shiftRegister = u.shiftIn.ctx.shiftRegister)
    (hcount : t.ctx.bitCount = u.shiftIn.ctx.bitCount) (hclock : t.ctx.clockLine = u.ctx.clockLine)
    (hq : t.ctx.protocolState ∈ [.addressWriteAck, .addressReadAck, .idle, .regNrAck, .writeAck]) :
    ByteIn v t := by
  rw [shiftIn_eighth h.bitCount] at hshift hcount
  exact ⟨hshift.trans h.shifted, hcount, hq, hclock.trans h.clock⟩

/-- Settles O56: the first seven bits are shifted in, and the eighth edge takes the assembled byte out of
the receive state. -/
theorem receivedByteIsAssembled : Obligations.ReceivedByteIsAssembled := by
  intro s v trace hs hlive hq hcount hclock
  refine runs_byteCells (P := ByteIn v) hq hlive hcount hclock (fun u hu => ?_) trace
  simp only [List.mem_cons, List.not_mem_nil, or_false] at hq
  rcases hq with hq | hq | hq
  · refine ⟨_, fallingEdge_address hu hq, byteIn_of_lastBit hu rfl rfl rfl ?_⟩
    rw [setProtocol_ctx]
    split_ifs <;> simp
  · exact ⟨_, fallingEdge_pointer hu hq, byteIn_of_lastBit hu rfl rfl rfl (by simp)⟩
  · obtain ⟨w, hw, ht⟩ := fallingEdge_data hu hq hs.pointer
    refine ⟨_, ht, byteIn_of_lastBit hu ?_ ?_ ?_ (by simp)⟩ <;> rw [hw.frame] <;> rfl

/-- `t` is `s` with `n` bits of its byte sent, at a low clock. -/
structure Sending (s : State) (n : Nat) (t : State) : Prop where
  live : t.live = true
  protocol : t.ctx.protocolState = .readRegs
  bitCount : t.ctx.bitCount = n
  shift : t.ctx.shiftRegister = s.ctx.shiftRegister
  clock : t.ctx.clockLine = false

/-- A falling edge in `READ_REGS` (R123). -/
theorem fallingEdge_readRegs {s : State} (hq : s.ctx.protocolState = .readRegs) :
    fallingEdge s = execFallReadRegs s := by
  unfold fallingEdge
  rw [hq]

/-- The clock pulses of some bits, before the eighth. -/
theorem runs_sendBits {s t : State} {n : Nat} (k : Nat) (ht : Sending s n t) (hn : n + k ≤ 7) :
    Runs (List.replicate k [0x01#8, 0x00#8]).flatten t (Sending s (n + k)) := by
  induction k generalizing t n with
  | zero => exact Runs.nil ht
  | succ k ih =>
    obtain ⟨hlive, hprotocol, hcount, hshift, hclock⟩ := ht
    rw [List.replicate_succ, List.flatten_cons]
    refine Runs.append (runs_pulse (P := Sending s (n + 1)) hlive hclock fun c => ?_) fun u hu => ?_
    · have h7 : (t.taken [] c).ctx.bitCount ≠ 7 := by
        show t.ctx.bitCount ≠ 7
        omega
      have hedge := (fallingEdge_readRegs (s := t.taken [] c) hprotocol).trans
        (execFallReadRegs_early _ h7)
      exact ⟨_, hedge, hlive, hprotocol, congrArg (· + 1) hcount, hshift, hclock⟩
    · have hrest := ih hu (by omega)
      rw [Nat.add_assoc, Nat.add_comm 1] at hrest
      exact hrest

/-- Settles O57: each pulse before the eighth counts one bit and keeps the byte, and the eighth enters the
acknowledge. -/
theorem sentByteBitByBit : Obligations.SentByteBitByBit := by
  intro s k trace hlive hq hcount hclock htrace
  have hstart : Sending s 0 s := ⟨hlive, hq, hcount, rfl, hclock⟩
  refine ⟨fun hk => ?_, fun hk => ?_⟩
  · obtain ⟨t, ht, hsending⟩ := runs_sendBits k hstart (by omega) trace htrace
    refine ⟨t, ht, ?_⟩
    rw [execR_readRegs hsending.protocol, hsending.shift, hsending.bitCount, Nat.zero_add]
    rfl
  · subst hk
    have hcodes : (List.replicate 8 [0x01#8, 0x00#8]).flatten =
        (List.replicate 7 [0x01#8, 0x00#8]).flatten ++ [0x01#8, (0x00#8 : Byte)] := rfl
    rw [hcodes] at htrace
    refine Runs.append (Q := fun t => t.ctx.protocolState = .readAck ∧
      t.ctx.shiftRegister = s.ctx.shiftRegister) (runs_sendBits 7 hstart (by omega))
      (fun t ht => ?_) trace htrace
    exact runs_pulse ht.live ht.clock fun c =>
      ⟨_, (fallingEdge_readRegs (s := t.taken [] c) ht.protocol).trans
        (execFallReadRegs_eighth _ ht.bitCount), rfl, ht.shift⟩

end Sys2Proof.Machine

/-! # Whole transfers

The trace that forces the lines idle, and a whole write transaction: the START, three bytes, and what
the storage holds after them. -/

namespace Sys2Proof.Machine

/-! ### Forcing the lines idle -/

/-- After `set_clock(0)` in a state of the invariant the clock is low (R110, R112). -/
theorem setClock_falls_low {s : State} (hs : s.Inv) :
    ∃ t, setClock false s = .next t ∧ t.live = s.live ∧ t.ctx.clockLine = false := by
  cases hc : s.ctx.clockLine with
  | false => exact ⟨s, setClock_same hc, rfl, hc⟩
  | true =>
    obtain ⟨t, ht, hdone⟩ := fallingEdge_spec _ (hs.setClockLine false)
    exact ⟨t, (setClock_fallingEdge hc).trans ht, hdone.outside.live, hdone.clockLine⟩

/-- A STOP is a `set_data(1)` with the clock high and the data line low (R129). -/
theorem exec_d1_stop {s : State} (hc : s.ctx.clockLine = true) (hd : s.ctx.dataLine = false) :
    exec .d1 s = .next (s.setDataLine true).abort := setData_stop hc hd

/-- Settles O55: the clock goes low, the data line goes low and the clock high, and the last call is a
STOP. -/
theorem linesForcedIdle : Obligations.LinesForcedIdle := by
  intro s h₁ h₂ h₃ h₄ hs hlive
  refine Runs.cons (codes := [0x02#8, 0x01#8, 0x03#8]) (i := .c0) (P := fun t =>
    t.ctx.protocolState = .idle ∧ t.ctx.clockLine = true ∧ t.ctx.dataLine = true) hlive rfl
    (fun c => ?_) _ rfl
  obtain ⟨u, hu, hkept, hlow⟩ := setClock_falls_low (hs.taken [] c)
  have hlive' : u.live = true := hkept.trans hlive
  refine ⟨u, hu, Runs.cons hlive' (i := .d0) rfl fun c =>
    ⟨_, setData_low (s := u.taken [] c) false hlow, ?_⟩⟩
  refine Runs.cons hlive' (i := .c1) rfl fun c => ⟨_, setClock_high _, ?_⟩
  refine Runs.cons hlive' (i := .d1) rfl fun c => ⟨_, exec_d1_stop rfl rfl, Runs.nil ⟨rfl, rfl, rfl⟩⟩

/-! ### The START -/

/-- After `set_data(1)` the data line is high, and the storage and the pointer are as they were (R126,
R127, R129). -/
theorem setData_high (s : State) : ∃ t, setData true s = .next t ∧ StorageKept s t ∧
    t.ctx.registerPointer = s.ctx.registerPointer ∧ t.ctx.dataLine = true := by
  cases hd : s.ctx.dataLine with
  | true => exact ⟨s, setData_same hd, ⟨rfl, rfl, rfl, rfl⟩, rfl, hd⟩
  | false =>
    cases hc : s.ctx.clockLine with
    | false => exact ⟨_, setData_low true hc, ⟨rfl, rfl, rfl, rfl⟩, rfl, rfl⟩
    | true => exact ⟨_, setData_stop hc hd, ⟨rfl, rfl, rfl, rfl⟩, rfl, rfl⟩

/-- The falling edge after a START asks for the address byte (R115). -/
theorem exec_c0_startWait {s : State} (hc : s.ctx.clockLine = true)
    (hq : s.ctx.protocolState = .startWait) :
    exec .c0 s = .next ((s.setClockLine false).setProtocol .getAddress) := by
  have hrow := setClock_fall hc
  rw [hq] at hrow
  exact hrow

/-- A START keeps the storage, the pointer and the clock line, and counts no bit (R128). -/
theorem exec_d0_start {s : State} (hc : s.ctx.clockLine = true) (hd : s.ctx.dataLine = true) :
    ∃ t, exec .d0 s = .next t ∧ StorageKept s t ∧ t.ctx.registerPointer = s.ctx.registerPointer ∧
      t.ctx.clockLine = true ∧ t.ctx.protocolState = .startWait ∧ t.ctx.bitCount = 0 :=
  ⟨s.started, setData_start hc hd, ⟨rfl, rfl, rfl, rfl⟩, rfl, hc, rfl, rfl⟩

/-- A START from any lines and any protocol state gets ready for the address byte (R105, R128). -/
theorem runs_startTrace {s : State} (hlive : s.live = true) :
    Runs startTrace s (Ready .getAddress s) := by
  refine Runs.cons hlive (i := .d1) rfl fun c => ?_
  obtain ⟨u, hu, hkept, hpointer, hdata⟩ := setData_high (s.taken [] c)
  have hlive' : u.live = true := hkept.live.trans hlive
  refine ⟨u, hu, Runs.cons hlive' (i := .c1) rfl fun c => ⟨_, setClock_high _, ?_⟩⟩
  refine Runs.cons hlive' (i := .d0) rfl fun c => ?_
  obtain ⟨v, hv, hkeptV, hpointerV, hclock, hq, hcount⟩ :=
    exec_d0_start (s := (((u.taken [] _).setClockLine true).taken [] c)) rfl hdata
  have hliveV : v.live = true := hkeptV.live.trans hlive'
  refine ⟨v, hv, Runs.cons hliveV (i := .c0) rfl fun c => ⟨_, exec_c0_startWait hclock hq, Runs.nil ?_⟩⟩
  have hkeptS : StorageKept s v :=
    ⟨hkeptV.params.trans hkept.params, hkeptV.live.trans hkept.live, hkeptV.ram.trans hkept.ram,
      hkeptV.registers.trans hkept.registers⟩
  exact ⟨⟨hkeptS.params, hkeptS.live, hkeptS.ram, hkeptS.registers⟩, hpointerV.trans hpointer, rfl,
    hcount, rfl⟩

/-! ### The acknowledge cell of a received byte -/

/-- The receive state an acknowledge state is followed by (R117, R119, R121). -/
def AckLeadsTo (q r : ProtocolState) : Prop :=
  (q = .addressWriteAck ∧ r = .getRegNr) ∨ ((q = .regNrAck ∨ q = .writeAck) ∧ r = .writeRegs)

/-- The falling edge of an acknowledge cell resets the shift logic (R113). -/
theorem fallingEdge_ack {s : State} {r : ProtocolState} (h : AckLeadsTo s.ctx.protocolState r) :
    fallingEdge s = .next (s.resetShift.setProtocol r) := by
  unfold fallingEdge
  rcases h with ⟨hq, rfl⟩ | ⟨hq | hq, rfl⟩ <;> rw [hq] <;> rfl

/-- An acknowledge cell gets ready for the next byte. -/
theorem runs_ack {s : State} {r : ProtocolState} (hlive : s.live = true)
    (hclock : s.ctx.clockLine = false) (h : AckLeadsTo s.ctx.protocolState r) :
    Runs [0x03#8, 0x01#8, 0x04#8, 0x00#8] s (Ready r s) :=
  runs_ackCell hlive hclock fun c l =>
    ⟨_, fallingEdge_ack (s := ((s.taken [] c).setDataLine true).setResult l) h,
      ⟨rfl, rfl, rfl, rfl⟩, rfl, rfl, rfl, hclock⟩

/-- A byte and its acknowledge cell, in a receive state at the start of a byte: what holds after the
eighth edge, in a state that acknowledges, still holds of that state at the start of the next byte. -/
theorem runs_sendByte {s s₀ : State} {v : Byte} {q r : ProtocolState} {P : State → Prop}
    (hq : q ∈ receiveStates) (hlive : s.live = true) (hs : Ready q s₀ s)
    (hedge : ∀ u, LastBit s v u → ∃ t, fallingEdge u = .next t ∧ t.live = true ∧
      t.ctx.clockLine = false ∧ AckLeadsTo t.ctx.protocolState r ∧ P t) :
    Runs (sendByte v) s fun w => ∃ t, P t ∧ Ready r t w := by
  have hreceive : s.ctx.protocolState ∈ receiveStates := hs.protocol ▸ hq
  refine Runs.append (runs_byteCells hreceive hlive hs.bitCount hs.clock hedge) ?_
  rintro t ⟨hliveT, hclock, hack, hP⟩ trace htrace
  obtain ⟨w, hw, hready⟩ := runs_ack hliveT hclock hack trace htrace
  exact ⟨w, hw, t, hP, hready⟩

/-! ### The three bytes of a write transaction -/

/-- At the eighth edge of a byte a bit is shifted in and the storage is as it was. -/
theorem LastBit.shiftIn_kept {s u : State} {v : Byte} (h : LastBit s v u) : StorageKept s u.shiftIn :=
  ⟨h.kept.params, h.kept.live, h.kept.ram, h.kept.registers⟩

/-- At the eighth edge of a byte the bit shifted in completes it. -/
theorem LastBit.shiftIn_byte {s u : State} {v : Byte} (h : LastBit s v u) :
    u.shiftIn.ctx.shiftRegister = v :=
  (congrArg (fun x : State => x.ctx.shiftRegister) (shiftIn_next u)).trans h.shifted

/-- The write-select is followed by the pointer byte (R116, R117). -/
theorem runs_selectWrite {s s₀ : State} (hlive : s.live = true) (hs : Ready .getAddress s₀ s) :
    Runs (sendByte 0xA0#8) s fun w => ∃ t, StorageKept s t ∧ Ready .getRegNr t w := by
  refine runs_sendByte (by decide) hlive hs fun u hu => ?_
  have hkept := hu.shiftIn_kept
  exact ⟨_, fallingEdge_address hu hs.protocol, hkept.live.trans hlive, hu.clock, .inl ⟨rfl, rfl⟩,
    ⟨hkept.params, hkept.live, hkept.ram, hkept.registers⟩⟩

/-- The pointer byte sets the pointer and is followed by the data bytes (R118, R119). -/
theorem runs_setPointer {s s₀ : State} {p : Byte} (hlive : s.live = true) (hs : Ready .getRegNr s₀ s) :
    Runs (sendByte p) s fun w => ∃ t, (StorageKept s t ∧
      t.ctx.registerPointer.toNat = p.toNat % s.addrSpace) ∧ Ready .writeRegs t w := by
  refine runs_sendByte (by decide) hlive hs fun u hu => ?_
  have hkept := hu.shiftIn_kept
  refine ⟨_, fallingEdge_pointer hu hs.protocol, hkept.live.trans hlive, hu.clock,
    .inr ⟨.inl rfl, rfl⟩, ⟨hkept.params, hkept.live, hkept.ram, hkept.registers⟩, ?_⟩
  have hpointer := commitPointer_toNat u.shiftIn
  rw [addrSpace_of_params_eq hkept.params, hu.shiftIn_byte] at hpointer
  exact hpointer

/-! ### What the storage holds after a data byte -/

/-- What the storage holds follows from RAM and the registers (R61). -/
theorem storedByte_congr {s t : State} (hram : t.ctx.ram = s.ctx.ram)
    (hregs : t.ctx.registers = s.ctx.registers) (a : Byte) : t.storedByte a = s.storedByte a := by
  unfold State.storedByte
  rw [hram, hregs]

/-- After a bank write the address holds the byte if it stores one, and every other address what it
held (R190). -/
theorem BankWritten.storedByte {a : Byte} {s t : State} (h : BankWritten a s t)
    (hwf : Memory.wf s.ctx.ram = true) (b : Byte) : t.storedByte b =
      if b.toNat = a.toNat ∧ (b.toNat = 0 ∨ 8 ≤ b.toNat) then s.ctx.shiftRegister
      else s.storedByte b := by
  unfold State.storedByte
  by_cases hb : b.toNat < 16
  · simp only [dif_pos hb, h.registers]
    by_cases hslot : a.toNat = 0 ∨ (8 ≤ a.toNat ∧ a.toNat ≤ 15)
    · simp only [dif_pos hslot, Vector.getElem_set]
      by_cases hsame : b.toNat = a.toNat
      · rw [if_pos hsame.symm, if_pos ⟨hsame, by omega⟩]
      · rw [if_neg (Ne.symm hsame), if_neg fun hboth => hsame hboth.1]
    · rw [if_neg (by omega)]
      simp only [dif_neg hslot]
  · simp only [dif_neg hb, h.ram]
    by_cases hram : 16 ≤ a.toNat
    · rw [if_pos hram, Memory.read_write _ _ _ _ hwf]
      exact if_congr (by omega) rfl rfl
    · rw [if_neg hram, if_neg (by omega)]

/-- What a data byte `v` leaves of a state whose pointer is in the address space. -/
structure DataWritten (s : State) (v : Byte) (t : State) : Prop where
  pointer : t.ctx.registerPointer.toNat = (s.ctx.registerPointer.toNat + 1) % s.addrSpace
  stored : ∀ b : Byte, t.storedByte b =
    if b.toNat = s.ctx.registerPointer.toNat ∧ (b.toNat = 0 ∨ 8 ≤ b.toNat) then v else s.storedByte b

/-- A data byte is written at the pointer, which advances, and is followed by the next (R120, R121). -/
theorem runs_writeData {s s₀ : State} {v : Byte} (hlive : s.live = true) (hs : Ready .writeRegs s₀ s)
    (hp : s.ctx.registerPointer.toNat < s.addrSpace) (h256 : s.addrSpace ≤ 256)
    (hwf : Memory.wf s.ctx.ram = true) :
    Runs (sendByte v) s fun w => ∃ t, DataWritten s v t ∧ Ready .writeRegs t w := by
  refine runs_sendByte (by decide) hlive hs fun u hu => ?_
  have hkept := hu.shiftIn_kept
  obtain ⟨w, hw, ht⟩ := fallingEdge_data hu hs.protocol hp
  have hframe : w = u.shiftIn.withBank w := hw.frame
  have hlive' : w.live = true := (congrArg State.live hframe).trans (hkept.live.trans hlive)
  have hclock : w.ctx.clockLine = false :=
    (congrArg (fun x : State => x.ctx.clockLine) hframe).trans hu.clock
  have hspace : w.addrSpace = s.addrSpace :=
    addrSpace_of_params_eq ((congrArg State.params hframe).trans hkept.params)
  have hpointer : w.ctx.registerPointer = s.ctx.registerPointer :=
    (congrArg (fun x : State => x.ctx.registerPointer) hframe).trans hu.pointer
  refine ⟨_, ht, hlive', hclock, .inr ⟨.inr rfl, rfl⟩, ?_, fun b => ?_⟩
  · have hadvance := incrementPointer_toNat w (by omega) (by omega)
    rw [hspace, hpointer] at hadvance
    exact hadvance
  · have hstored := hw.storedByte (by rw [hkept.ram]; exact hwf) b
    rw [hu.shiftIn_byte, storedByte_congr hkept.ram hkept.registers] at hstored
    exact hstored

/-! ### The transaction -/

/-- Settles O58: the START, the write-select, the pointer byte and the data byte, one after another. -/
theorem writeTransaction : Obligations.WriteTransaction := by
  intro s p v trace hs hlive htrace
  obtain ⟨h0, h256⟩ := hs.addrSpace_bounds
  have hwf : Memory.wf s.ctx.ram = true := by
    have hram := hs.ram
    rw [Memory.ok, Bool.and_eq_true] at hram
    exact hram.1
  have hselected : Runs (startTrace ++ sendByte 0xA0#8) s fun w =>
      ∃ t, StorageKept s t ∧ Ready .getRegNr t w :=
    Runs.append (runs_startTrace hlive) fun t ht =>
      (runs_selectWrite (ht.kept.live.trans hlive) ht).mono fun _ ⟨u, hu, hw⟩ =>
        ⟨u, ht.kept.trans hu, hw⟩
  have hpointed : Runs (startTrace ++ sendByte 0xA0#8 ++ sendByte p) s fun w =>
      ∃ t, (StorageKept s t ∧ t.ctx.registerPointer.toNat = p.toNat % s.addrSpace) ∧
        Ready .writeRegs t w := by
    refine Runs.append hselected ?_
    rintro w ⟨t, hkept, hready⟩
    have hkeptW := hkept.trans hready.kept
    refine (runs_setPointer (hkeptW.live.trans hlive) hready).mono ?_
    rintro x ⟨u, ⟨hu, hpointer⟩, hx⟩
    rw [addrSpace_of_params_eq hkeptW.params] at hpointer
    exact ⟨u, ⟨hkeptW.trans hu, hpointer⟩, hx⟩
  refine Runs.append hpointed (Q := fun t => t.ctx.protocolState = .writeRegs ∧ t.ctx.bitCount = 0 ∧
      t.ctx.registerPointer.toNat = (p.toNat % s.addrSpace + 1) % s.addrSpace ∧
      ∀ a : Byte, a.toNat < s.addrSpace → t.storedByte a =
        if a.toNat = p.toNat % s.addrSpace ∧ (a.toNat = 0 ∨ 8 ≤ a.toNat) then v else s.storedByte a)
    ?_ trace htrace
  rintro w ⟨t, ⟨hkept, hpointer⟩, hready⟩
  have hkeptW := hkept.trans hready.kept
  have hspace : w.addrSpace = s.addrSpace := addrSpace_of_params_eq hkeptW.params
  have hpointerW : w.ctx.registerPointer.toNat = p.toNat % s.addrSpace := by
    rw [hready.pointer, hpointer]
  refine (runs_writeData (hkeptW.live.trans hlive) hready ?_ (hspace ▸ h256)
    (by rw [hkeptW.ram]; exact hwf)).mono ?_
  · rw [hspace, hpointerW]
    exact Nat.mod_lt _ h0
  · rintro y ⟨x, ⟨hadvance, hstored⟩, hy⟩
    refine ⟨hy.protocol, hy.bitCount, ?_, fun a _ => ?_⟩
    · rw [hy.pointer, hadvance, hspace, hpointerW]
    · rw [storedByte_congr hy.kept.ram hy.kept.registers, hstored, hpointerW,
        storedByte_congr hkeptW.ram hkeptW.registers]

end Sys2Proof.Machine
